-- ==== Sys2Proof/Word.lean ====
section
/-!
DEFINITION. The widths of the machine's words (spec 00_scope.md R6, 10_state.md R12).
All values are unsigned (R7, R10).
-/

namespace Sys2Proof

/-- `SHIFT_W` = `BUS_W` = 8: a serial character, a bus byte, an operand byte (R6, R68). -/
abbrev Byte := BitVec 8

/-- A command word, 16 bits (30_encoding.md R65). -/
abbrev CmdWord := BitVec 16

/-- `MILLIS_W` = 64: the millisecond counter (R6, R13). -/
abbrev MillisWord := BitVec 64

/-- `ACC_W` = 16: the sub-millisecond accumulator (R6, R14). -/
abbrev AccWord := BitVec 16

end Sys2Proof
end

