-- ==== Sys2Proof/Machine/Operands.lean ====
section
/-!
DEFINITION. The fields and operand forms of a command word (spec 30_encoding.md R65, R68): the
operation code, the operand byte of format `D`, the operand bit of format `F`, and the bits a
format requires to be zero. No operand is signed, extended, scaled or names a register (R68).
-/

namespace Sys2Proof.Machine

/-- `cw[15:8]`, the operation code (R65). -/
def fieldOpc (cw : CmdWord) : Byte := cw.extractLsb' 8 8

/-- `cw[7:0]`, the operand field; format `D` uses it whole as an unsigned byte (R65, R68). -/
def fieldImm8 (cw : CmdWord) : Byte := cw.extractLsb' 0 8

/-- `cw[0]`, the operand bit of format `F` (R68). -/
def fieldFlag (cw : CmdWord) : Bool := cw.getLsbD 0

/-- `cw[7:1]`, which format `F` requires to be zero (R65). -/
def fieldFlagZero (cw : CmdWord) : BitVec 7 := cw.extractLsb' 1 7

/-- The operand field that spells an operand bit. -/
def flagImm8 (s : Bool) : Byte := if s then 0x01 else 0x00

/-- A word from its operation code and operand field: `{opc, imm8}` (R65). -/
def joinWord (opc imm : Byte) : CmdWord := opc ++ imm

end Sys2Proof.Machine
end

