-- ==== Sys2Proof/Syntax.lean ====
section
/-!
DEFINITION. The abstract syntax of spec 30_encoding.md R66: one constructor per row of the opcode
table (R67). `SENDS` has no word and no constructor; it expands to `SENDB` (R74, Machine/Uart.lean).
-/

namespace Sys2Proof

/-- Host operations, environment operations and events (00_scope.md R5). -/
inductive Instr where
  /-- `SENDB b`: `send_byte(b)` (R125). -/
  | sendb (b : Byte)
  /-- `XFER b`: `transfer(byte) -> byte` (R157). -/
  | xfer (b : Byte)
  /-- `NOW`: `now() -> milliseconds` (R105). -/
  | now
  /-- `IRQOFF`: save the interrupt enable and disable interrupts (R181). -/
  | irqoff
  /-- `IRQRST s`: restore the interrupt enable to `s` (R182). -/
  | irqrst (s : Bool)
  /-- `CSON`: assert chip-select (R195). -/
  | cson
  /-- `CSOFF`: de-assert chip-select (R196). -/
  | csoff
  /-- `ENON`: assert the radio's enable line (R197). -/
  | enon
  /-- `ENOFF`: de-assert the radio's enable line (R198). -/
  | enoff
  /-- `DELAY`: the micro-delay of the completion poll (R199). -/
  | delay
  /-- `TICK`: one run of the periodic interrupt handler, an event (R90). -/
  | tick
  /-- `EXPIRE`: the timer's period has elapsed, an event (R92). -/
  | expire
  deriving DecidableEq, Repr

/-- The four formats of a command word (R65). -/
inductive Format where
  | data
  | none
  | flag
  | event
  deriving DecidableEq, Repr

/-- The format of each operation (R67). -/
def Instr.format : Instr → Format
  | .sendb _ => .data
  | .xfer _ => .data
  | .now => .none
  | .irqoff => .none
  | .irqrst _ => .flag
  | .cson => .none
  | .csoff => .none
  | .enon => .none
  | .enoff => .none
  | .delay => .none
  | .tick => .event
  | .expire => .event

/-- Format `E`: never a host command, only a label in a schedule (R65, R69). -/
def Instr.isEvent (i : Instr) : Bool := i.format == .event

end Sys2Proof
end

