-- ==== Sys2Proof/WellFormed.lean ====
section
/-!
DEFINITION. Well-formedness. Operands carry their width in their type, so every term of `Instr` is
a well-formed operation; what can be ill-formed is a host command and a host program: an event is
never a host command (spec 30_encoding.md R65, R69, R72).
-/

namespace Sys2Proof

/-- A command the main context may issue: a word of format `D`, `N` or `F` (R69). -/
def Instr.hostWellFormed (i : Instr) : Bool := !i.isEvent

/-- A host program in abstract syntax: every command is a host command (R69). -/
def hostProgramWellFormed (p : List Instr) : Bool := p.all Instr.hostWellFormed

end Sys2Proof
end

