-- ==== Sys2Proof/Decode.lean ====
section
/-!
DEFINITION. The decoder and the encoder of command words, from the opcode map of spec
30_encoding.md R67. The decoder is total on 16-bit words and rejects by name (R72).
-/

namespace Sys2Proof

open Sys2Proof.Machine

/-- Why a word spells no operation (R72). -/
inductive DecodeError where
  /-- `cw[15:8]` is no operation code of R67. -/
  | unknownOpcode
  /-- Format `N` or `E` with `cw[7:0]` not zero. -/
  | operandNotZero
  /-- Format `F` with `cw[7:1]` not zero. -/
  | flagBitsNotZero
  deriving DecidableEq, Repr

/-- Formats `N` and `E`: the operand field must be zero (R65). -/
def decodeBare (i : Instr) (cw : CmdWord) : Except DecodeError Instr :=
  if fieldImm8 cw = 0 then .ok i else .error .operandNotZero

/-- Format `F`: `cw[7:1]` must be zero, `cw[0]` is the operand (R65, R68). -/
def decodeFlag (mk : Bool → Instr) (cw : CmdWord) : Except DecodeError Instr :=
  if fieldFlagZero cw = 0 then .ok (mk (fieldFlag cw)) else .error .flagBitsNotZero

/-- The operation a command word spells (R67), or why it spells none (R72). -/
def decode (cw : CmdWord) : Except DecodeError Instr :=
  if fieldOpc cw = 0x01 then .ok (.sendb (fieldImm8 cw))
  else if fieldOpc cw = 0x02 then .ok (.xfer (fieldImm8 cw))
  else if fieldOpc cw = 0x03 then decodeBare .now cw
  else if fieldOpc cw = 0x04 then decodeBare .irqoff cw
  else if fieldOpc cw = 0x05 then decodeFlag .irqrst cw
  else if fieldOpc cw = 0x10 then decodeBare .cson cw
  else if fieldOpc cw = 0x11 then decodeBare .csoff cw
  else if fieldOpc cw = 0x12 then decodeBare .enon cw
  else if fieldOpc cw = 0x13 then decodeBare .enoff cw
  else if fieldOpc cw = 0x14 then decodeBare .delay cw
  else if fieldOpc cw = 0x80 then decodeBare .tick cw
  else if fieldOpc cw = 0x81 then decodeBare .expire cw
  else .error .unknownOpcode

/-- The decoder as an `Option`. -/
def decode? (cw : CmdWord) : Option Instr :=
  match decode cw with
  | .ok i => some i
  | .error _ => none

/-- The instruction the decoder reads from an instruction whose bits are `w`, numbered as the
opcode table numbers them; every row has 16 bits and one word (R65, R71; log 19). -/
def decodeTableWord (nbits w : Nat) : Option Instr :=
  if w % 2 ^ nbits < 2 ^ 16 then decode? (BitVec.ofNat 16 (w % 2 ^ nbits)) else none

/-- The operation code of R67. -/
def Instr.opc : Instr → Byte
  | .sendb _ => 0x01
  | .xfer _ => 0x02
  | .now => 0x03
  | .irqoff => 0x04
  | .irqrst _ => 0x05
  | .cson => 0x10
  | .csoff => 0x11
  | .enon => 0x12
  | .enoff => 0x13
  | .delay => 0x14
  | .tick => 0x80
  | .expire => 0x81

/-- The operand field of R67 and R68. -/
def Instr.imm8 : Instr → Byte
  | .sendb b => b
  | .xfer b => b
  | .irqrst s => flagImm8 s
  | .now => 0
  | .irqoff => 0
  | .cson => 0
  | .csoff => 0
  | .enon => 0
  | .enoff => 0
  | .delay => 0
  | .tick => 0
  | .expire => 0

/-- The command word of an operation (R65, R67). -/
def encode (i : Instr) : CmdWord := joinWord i.opc i.imm8

/-- One row of the opcode map: a word spells the row's operation exactly when
`cw & mask = match` (R67). -/
structure OpcodeRow where
  mnemonic : String
  mask : CmdWord
  value : CmdWord
  deriving DecidableEq, Repr

/-- The opcode map of R67, row by row. -/
def opcodeMap : List OpcodeRow :=
  [ { mnemonic := "SENDB", mask := 0xFF00, value := 0x0100 },
    { mnemonic := "XFER", mask := 0xFF00, value := 0x0200 },
    { mnemonic := "NOW", mask := 0xFFFF, value := 0x0300 },
    { mnemonic := "IRQOFF", mask := 0xFFFF, value := 0x0400 },
    { mnemonic := "IRQRST", mask := 0xFFFE, value := 0x0500 },
    { mnemonic := "CSON", mask := 0xFFFF, value := 0x1000 },
    { mnemonic := "CSOFF", mask := 0xFFFF, value := 0x1100 },
    { mnemonic := "ENON", mask := 0xFFFF, value := 0x1200 },
    { mnemonic := "ENOFF", mask := 0xFFFF, value := 0x1300 },
    { mnemonic := "DELAY", mask := 0xFFFF, value := 0x1400 },
    { mnemonic := "TICK", mask := 0xFFFF, value := 0x8000 },
    { mnemonic := "EXPIRE", mask := 0xFFFF, value := 0x8100 } ]

/-- Whether a word spells a row's operation (R67). -/
def OpcodeRow.accepts (r : OpcodeRow) (cw : CmdWord) : Bool := cw &&& r.mask == r.value

/-- The mnemonic of an operation (R5, R67). -/
def Instr.mnemonic : Instr → String
  | .sendb _ => "SENDB"
  | .xfer _ => "XFER"
  | .now => "NOW"
  | .irqoff => "IRQOFF"
  | .irqrst _ => "IRQRST"
  | .cson => "CSON"
  | .csoff => "CSOFF"
  | .enon => "ENON"
  | .enoff => "ENOFF"
  | .delay => "DELAY"
  | .tick => "TICK"
  | .expire => "EXPIRE"

/-- Pseudo-operation `SENDS s` (R74, R130): one `SENDB` per byte, in order, nothing for the empty
string; the terminator of a C string is no part of the list (D14). -/
def expandSends (s : List Byte) : List Instr := s.map Instr.sendb

/-- The command words of a program in abstract syntax. -/
def assemble (p : List Instr) : List CmdWord := p.map encode

end Sys2Proof
end

