-- ==== Sys2Proof/Config.lean ====
section
/-!
DEFINITION. The parameters of spec 00_scope.md R6 and 92_eei_decisions.md (OPEN parameters), the
radio's open command table (45_sequencer_environment.md R192), and the two free values of the model:
the peripheral's answer bits and the choice of which agent moves next.
-/

namespace Sys2Proof.Config

/-- Width of the millisecond counter (R6, R13), the width of `MillisWord`. -/
def MILLIS_W : Nat := 64

/-- Width of the accumulator (R6, R14), the width of `AccWord`. -/
def ACC_W : Nat := 16

/-- The micro-delay of the poll loop: OPEN with no default, no rule reads it (R6, D17; log 22). -/
opaque POLL_DELAY : Nat

/-- The parameters the model takes as an argument (R6; 92_eei_decisions.md, OPEN parameters). They
are held in State and no step writes them; a statement about every state holds for every value of
them that meets its premises (log 9, log 25). -/
structure Params where
  /-- `TB_CARRY_STRICT`: the carry test is `>` (true) or `>=` (false) (R101, C2, D11). -/
  tbCarryStrict : Bool
  /-- `BUS_MSB_FIRST`: bit order of the bus (R43, R152, D8). -/
  busMsbFirst : Bool
  /-- The optional faulty-hardware switch: the transfer-complete flag never sets (R159, U4). -/
  busFaulty : Bool
  /-- `T0`: amount added to `ACC` per tick. -/
  t0 : Nat
  /-- `MS_UNITS`: accumulator units per millisecond. -/
  msUnits : Nat
  /-- `SHIFT_W`: width of the shift buffer and of a serial character. -/
  shiftW : Nat
  /-- `STOP_IDX`: first bit index that is a stop condition. -/
  stopIdx : Nat
  /-- `BITIDX_MAX`: largest value of the bit index. -/
  bitIdxMax : Nat
  /-- `FRAME_TICKS`: ticks from the start bit to the tick that clears busy, inclusive. -/
  frameTicks : Nat
  /-- `BUS_W`: bits per bus transfer and width of the shift register. -/
  busW : Nat
  /-- `PAYLOAD_LEN`: radio payload bytes (environment only). -/
  payloadLen : Nat
  /-- `ADDR_LEN`: radio address register bytes (environment only). -/
  addrLen : Nat
  /-- `POLL_MASK`: status bits that end the completion poll (R193, environment only). -/
  pollMask : Byte
  deriving DecidableEq, Repr

/-- The spec's defaults: the source's literals, unaudited (R6; log 25), and the switches' defaults
`TB_CARRY_STRICT` false, `BUS_MSB_FIRST` true, faulty hardware off (92_eei_decisions.md). -/
def Params.normative : Params :=
  { tbCarryStrict := false
    busMsbFirst := true
    busFaulty := false
    t0 := 103
    msUnits := 1000
    shiftW := 8
    stopIdx := 9
    bitIdxMax := 10
    frameTicks := 10
    busW := 8
    payloadLen := 16
    addrLen := 5
    pollMask := 0x30 }

/-- The frame parameters fit each other, "for the frame rules to make sense" (92_eei_decisions.md,
OPEN parameters), and the 8-bit registers `SHIFT` and `SR` (R12; log 25). -/
abbrev Params.WidthsCoherent (c : Params) : Prop :=
  c.shiftW = 8 ∧ c.busW = 8 ∧ c.stopIdx = c.shiftW + 1 ∧ c.bitIdxMax = c.stopIdx + 1 ∧
    c.frameTicks = c.stopIdx + 1

/-- The time parameters keep the bounds of 41_timebase.md R102: one carry per tick is enough, and
the 16-bit sum does not wrap. -/
abbrev Params.TimeCoherent (c : Params) : Prop :=
  0 < c.t0 ∧ c.t0 ≤ c.msUnits ∧ c.msUnits + c.t0 < 2 ^ ACC_W

/-- What the peripheral sees of the block and of the Sequencer's lines (R155): a bit on data-out,
a new level of chip-select, a new level of the enable line. -/
inductive BusEvent where
  | sentBit (d : Bool)
  | chipSelect (level : Bool)
  | enableLine (level : Bool)
  deriving DecidableEq, Repr

/-- Free value (log 6): the answer bit of a peripheral about which nothing is known, as a function
of everything it has seen (newest first) and of the bit sent in this pulse (R155, U12). -/
opaque peripheralAnswer : List BusEvent → Bool → Bool

/-- Free value (log 4): whether the timer's period elapses before the next main-context phase, at
the `n`-th choice that no listed schedule makes (20_memory.md R50, D22). -/
opaque timerFires : Nat → Bool

/-- The radio's command bytes and register addresses (45_sequencer_environment.md R192): every
value is open, so claims about scripts hold for every table. -/
structure CmdTable where
  cmdWrite : Byte
  cmdRead : Byte
  cmdFlushTx : Byte
  cmdLoadPayload : Byte
  cmdNop : Byte
  regConfig : Byte
  regRfCh : Byte
  regStatus : Byte
  regTxAddr : Byte
  regRxAddrP0 : Byte
  /-- `ST_DATA_SENT`, one bit of the status byte. -/
  stDataSent : Byte
  /-- `ST_MAX_RETRY`, one bit of the status byte. -/
  stMaxRetry : Byte
  dontCare : Byte
  deriving DecidableEq, Repr

/-- A byte with one bit set: "each a single bit within the status byte" (R192). -/
abbrev oneBit (b : Byte) : Prop := b ≠ 0 ∧ b &&& (b - 1) = 0

/-- The two status flags are one bit each, and together they are the poll mask (R192, R193). -/
abbrev CmdTable.FlagsCoherent (t : CmdTable) (mask : Byte) : Prop :=
  oneBit t.stDataSent ∧ oneBit t.stMaxRetry ∧ t.stDataSent ||| t.stMaxRetry = mask

end Sys2Proof.Config
end

