-- ==== Sys2Proof/Machine/State.lean ====
section
/-!
DEFINITION. The machine's state (spec 10_state.md R10 to R35): the block's eleven elements, the
environment's lines, the main context, the parameters, the attached peripheral, and
the model's own schedule. Plain data throughout. The reasons a step can stop, and the state after
reset (R33).
-/

namespace Sys2Proof.Machine

open Sys2Proof

/-- The phase of the main context within its current command (10_state.md R31). -/
inductive Phase where
  /-- `SENDB` poll (R125). -/
  | p
  /-- `SENDB` load (R125). -/
  | l
  /-- `NOW`: save and disable (R105). -/
  | n1
  /-- `NOW`: read (R105). -/
  | n2
  /-- `NOW`: restore and return (R105). -/
  | n3
  /-- `XFER`: load the shift register (R157). -/
  | x1
  /-- `XFER`: clear the flag and the count (R157). -/
  | x2
  /-- `XFER`: pulse and test (R157). -/
  | x3
  /-- `XFER`: return (R157). -/
  | x4
  /-- The one phase of a single-phase command (R31). -/
  | zero
  /-- The "-" of `mpc = (n, -)` (70_reset_and_hazards.md R268): no command (log 3). -/
  | none
  deriving DecidableEq, Repr

/-- The value returned by the last completed host operation (R30): 64 bits from `NOW`, 8 bits from
`XFER`, 1 bit from `IRQOFF`. -/
inductive Ret where
  | nothing
  | millis (m : MillisWord)
  | byte (b : Byte)
  | flag (f : Bool)
  deriving DecidableEq, Repr

/-- One choice of the schedule: which agent moves when both `EXPIRE` and a main-context phase could
(20_memory.md R50; log 4). -/
inductive Choice where
  | expire
  | main
  deriving DecidableEq, Repr

/-- The register-model test double of 45_sequencer_environment.md R203 (log 8). -/
structure RegModel where
  /-- The command bytes and register addresses this double answers to. -/
  table : Config.CmdTable
  /-- Its status register `STATUS`. -/
  status : Byte
  /-- Whether its transmit buffer is empty (item 4). -/
  txEmpty : Bool
  /-- The byte being assembled (item 1). -/
  partialByte : Byte
  /-- Bits of that byte seen so far. -/
  bitCount : Nat
  /-- Complete bytes since `CSON` (item 1). -/
  byteCount : Nat
  /-- The first byte of the transaction. -/
  firstByte : Byte
  /-- `STATUS` as it stood when the first byte of the transaction began: the byte answered during
  it (item 2). -/
  reply : Byte
  /-- An `ENON` has been seen for which the double has not completed yet (item 5). -/
  armed : Bool
  /-- The double's own choice of the moment (item 5): while it is armed one entry is consumed at
  every event it sees. An entry without a bit of `POLL_MASK` means "not yet", the first entry with
  one sets those bits. -/
  plan : List Byte
  deriving DecidableEq, Repr

/-- The device at the other end of the bus (43_bus_transfer.md R155; log 6, 7). -/
inductive Peripheral where
  /-- A device about which nothing is known: the oracle of R155. -/
  | unknown
  /-- A device whose coming answer bits are listed; past the list it is unknown. -/
  | scripted (answers : List Bool)
  /-- The echo test double of R156. -/
  | echo
  /-- The register-model test double of R203. -/
  | regModel (m : RegModel)
  deriving DecidableEq, Repr

/-- Why a step stops. None of these is an exception of the block, which has none (R220): the first
three are the spec's "stuck" (00_scope.md R7), an agent asked for a step that is not enabled. -/
inductive Fault where
  /-- Raised by `TICK` when `x[IE] = 0` or `x[PEND] = 0` (R91). `step` never asks for it. Safe. -/
  | tickNotEnabled
  /-- Raised by `EXPIRE` while a `TICK` is enabled (R92). `step` never asks for it. Safe. -/
  | expireNotEnabled
  /-- Raised by a main-context phase while a `TICK` is enabled (R91). `step` never asks for it. Safe. -/
  | mainNotEnabled
  /-- Raised by the load phase of `SENDB` with `x[BUSY] = 1` (R126, D20, U3). Unreachable. Safe. -/
  | txOverrun
  /-- Raised by a command whose phase is not one of its own (R31; log 12). Unreachable. Safe. -/
  | phaseMismatch
  deriving DecidableEq, Repr

/-- Why a host program has no execution. -/
inductive Refusal where
  /-- Raised by an arm of `exec` without a meaning; no arm is one. Safe. -/
  | notModelled (mnemonic : String)
  /-- Raised by `step` when a word of the host program spells no operation (R72, D13). Safe. -/
  | invalidWord
  /-- Raised by `step` when a word of the host program is an event word (R69, R72). Safe. -/
  | eventInProgram
  deriving DecidableEq, Repr

/-- The state of the machine. -/
structure State where
  /-- `MILLIS`, element 0 (R13). -/
  millis : MillisWord
  /-- `ACC`, element 1 (R14). -/
  acc : AccWord
  /-- `BUSY`, element 2 (R15). -/
  busy : Bool
  /-- `BITIDX`, element 3 (R16); its range `0 .. 10` is an invariant (Safety.lean; log 10). -/
  bitIdx : Nat
  /-- `SHIFT`, element 4 (R17). -/
  shift : Byte
  /-- `TXLINE`, element 5, true = high (R18). -/
  txLine : Bool
  /-- `IE`, element 6 (R20). -/
  ie : Bool
  /-- `PEND`, element 7 (R22). -/
  pend : Bool
  /-- `SR`, element 8 (R23). -/
  sr : Byte
  /-- `DONE`, element 9 (R24). -/
  done : Bool
  /-- `CNT`, element 10 (R25); its range `0 .. 7` is an invariant (Safety.lean; log 10). -/
  cnt : Nat
  /-- `CS`, the chip-select line, true = asserted (R27). -/
  cs : Bool
  /-- `EN`, the radio's enable line, true = asserted (R27). -/
  en : Bool
  /-- `LOST`, the ghost count of merged expiries (R28). -/
  lost : Nat
  /-- The host program: an immutable list of command words (R55, R69). -/
  prog : List CmdWord
  /-- The command index `i` of `mpc = (i, phase)` (R31). -/
  idx : Nat
  /-- The phase of `mpc = (i, phase)` (R31). -/
  phase : Phase
  /-- `saved`, private to the main context (R30). -/
  saved : Bool
  /-- `v`, private to the main context (R30). -/
  v : MillisWord
  /-- `ret`, private to the main context (R30). -/
  ret : Ret
  /-- The parameters, fixed for the machine (R6; log 9). -/
  cfg : Config.Params
  /-- The attached peripheral (R155). -/
  periph : Peripheral
  /-- Everything the peripheral has seen, newest first (R155). -/
  seen : List Config.BusEvent
  /-- The MODEL's own: the listed choices of which agent moves next (R50; log 4). -/
  sched : List Choice
  /-- The MODEL's own: how many choices were drawn from `Config.timerFires` (log 4). -/
  drawn : Nat
  deriving DecidableEq, Repr

/-- The machine right after start-up (R33, R260 to R263): the source's zeros for the Time Base, the
spec's values where it decides one (log 1), and a named value where the spec leaves the register
unspecified (`bitIdx`, `shift`, `sr`, `done`, `saved`, `v`, `ret`: log 2). No host program is
loaded (log 14), the peripheral is unknown and has seen nothing, no choice is listed. -/
def State.reset : State :=
  { millis := 0
    acc := 0
    busy := false
    bitIdx := 0
    shift := 0
    txLine := true
    ie := true
    pend := false
    sr := 0
    done := false
    cnt := 0
    cs := false
    en := false
    lost := 0
    prog := []
    idx := 0
    phase := .none
    saved := false
    v := 0
    ret := .nothing
    cfg := Config.Params.normative
    periph := .unknown
    seen := []
    sched := []
    drawn := 0 }

end Sys2Proof.Machine
end

