-- ==== Sys2Proof/Machine/Flags.lean ====
section
/-!
DEFINITION. The conditions and the flag values the rules compute. The block has no arithmetic
condition codes; its four flags are `BUSY`, `DONE`, `IE` and `PEND` (spec 10_state.md R21).
-/

namespace Sys2Proof.Machine

open Sys2Proof

/-- `TICK` is enabled exactly when `x[IE] = 1` and `x[PEND] = 1` (40_tick.md R91). -/
def State.tickEnabled (s : State) : Bool := s.ie && s.pend

/-- The carry test of the Time Base against `MS_UNITS`: `>=`, or `>` under `TB_CARRY_STRICT`
(41_timebase.md R101). -/
def carryTest (strict : Bool) (ms : Nat) (acc : AccWord) : Bool :=
  if strict then decide (acc.toNat > ms) else decide (acc.toNat ≥ ms)

/-- A data position of the frame: `1 <= x[BITIDX] <= 8`, that is below `STOP_IDX` (42_uart_tx.md
R122). -/
def dataPosition (stopIdx idx : Nat) : Bool := decide (1 ≤ idx) && decide (idx < stopIdx)

/-- `LOST` after an `EXPIRE`: one more when an expiry was still pending (40_tick.md R92, R93). -/
def lostAfterExpire (pend : Bool) (lost : Nat) : Nat := if pend then lost + 1 else lost

/-- The pulse that brings the count to `BUS_W` (43_bus_transfer.md R153). -/
def lastPulse (busW cnt : Nat) : Bool := cnt + 1 == busW

/-- `DONE` after the last pulse: set, unless the faulty-hardware switch is on (R153, R159). -/
def doneAfterLastPulse (faulty done : Bool) : Bool := if faulty then done else true

end Sys2Proof.Machine
end

