-- ==== Sys2Proof/Machine/Ops.lean ====
section
/-!
DEFINITION. The named operations over the state that the meanings share: the numbered state
elements, the main context's position, the interrupt's entry and return, and the few grouped
writes the rules make.
-/

namespace Sys2Proof.Machine

open Sys2Proof

/-- A step's outcome. -/
abbrev Result := Host.Outcome State Fault Refusal

/-- The block's eleven elements (10_state.md R12). -/
inductive Element where
  | millis
  | acc
  | busy
  | bitIdx
  | shift
  | txLine
  | ie
  | pend
  | sr
  | done
  | cnt
  deriving DecidableEq, Repr

/-- The number the spec gives each element (R12). -/
def Element.number : Element → Nat
  | .millis => 0
  | .acc => 1
  | .busy => 2
  | .bitIdx => 3
  | .shift => 4
  | .txLine => 5
  | .ie => 6
  | .pend => 7
  | .sr => 8
  | .done => 9
  | .cnt => 10

/-- `x[NAME]`: the element's value as a number (00_scope.md R7). -/
def State.read (s : State) : Element → Nat
  | .millis => s.millis.toNat
  | .acc => s.acc.toNat
  | .busy => s.busy.toNat
  | .bitIdx => s.bitIdx
  | .shift => s.shift.toNat
  | .txLine => s.txLine.toNat
  | .ie => s.ie.toNat
  | .pend => s.pend.toNat
  | .sr => s.sr.toNat
  | .done => s.done.toNat
  | .cnt => s.cnt

/-- The elements each operation may write, phases merged (46_control_and_access.md R214). -/
def writeSet : Instr → List Element
  | .tick => [.millis, .acc, .busy, .bitIdx, .shift, .txLine, .pend]
  | .expire => [.pend]
  | .now => [.ie]
  | .sendb _ => [.busy, .bitIdx, .shift]
  | .xfer _ => [.sr, .done, .cnt]
  | .irqoff => [.ie]
  | .irqrst _ => [.ie]
  | .cson => []
  | .csoff => []
  | .enon => []
  | .enoff => []
  | .delay => []

/-- The phases of a command (10_state.md R31); an event is no host command and has none. -/
def phasesOf : Instr → List Phase
  | .sendb _ => [.p, .l]
  | .xfer _ => [.x1, .x2, .x3, .x4]
  | .now => [.n1, .n2, .n3]
  | .irqoff => [.zero]
  | .irqrst _ => [.zero]
  | .cson => [.zero]
  | .csoff => [.zero]
  | .enon => [.zero]
  | .enoff => [.zero]
  | .delay => [.zero]
  | .tick => []
  | .expire => []

/-- The first phase of a command (R31, R211). -/
def firstPhase : Instr → Phase
  | .sendb _ => .p
  | .xfer _ => .x1
  | .now => .n1
  | .irqoff => .zero
  | .irqrst _ => .zero
  | .cson => .zero
  | .csoff => .zero
  | .enon => .zero
  | .enoff => .zero
  | .delay => .zero
  | .tick => .none
  | .expire => .none

/-- The operation that command `i` of a program spells, if it spells one. -/
def commandAt (prog : List CmdWord) (i : Nat) : Option Instr := prog[i]?.bind decode?

/-- The phase in which the main context arrives at command `i`: its first phase, "-" past the end
of the list (R31, R268). -/
def arrivalPhase (prog : List CmdWord) (i : Nat) : Phase :=
  match commandAt prog i with
  | some op => firstPhase op
  | none => .none

/-- `mpc <- (i, phase)` within one command (R211). -/
def State.goto (s : State) (ph : Phase) : State := { s with phase := ph }

/-- `complete`: `mpc <- (i+1, first phase of the next command)` (R31, 00_scope.md R8). -/
def State.complete (s : State) : State :=
  { s with idx := s.idx + 1, phase := arrivalPhase s.prog (s.idx + 1) }

/-- `stay`: the operation remains in the same phase (00_scope.md R8). -/
def State.stay (s : State) : State := s

/-- `ret <- r` (00_scope.md R8). -/
def State.setRet (s : State) (r : Ret) : State := { s with ret := r }

/-- `x[IE] <- b` (R20). -/
def State.setIe (s : State) (b : Bool) : State := { s with ie := b }

/-- The load of the transmitter, three writes in one atomic step (42_uart_tx.md R125, R126). -/
def State.loadTx (s : State) (b : Byte) : State :=
  { s with shift := b, bitIdx := 0, busy := true }

/-- The timer's expiry is latched (40_tick.md R92, R93). -/
def State.latchExpiry (s : State) : State :=
  { s with lost := lostAfterExpire s.pend s.lost, pend := true }

/-- Entry of the interrupt (60_exceptions.md R227): `PEND` is cleared and the main context is
frozen where it stands; no cause, address, status or mode is saved, and `IE` as the main context
sees it is left alone (R229). -/
def State.interruptEntry (s : State) : State := { s with pend := false }

/-- Return from the interrupt (R230): the end of the atomic `TICK` step. It restores nothing
beyond what entry left frozen, and `IE` is as before the entry. -/
def State.interruptReturn (s : State) : State := s

/-- The shared operation of taking the interrupt: entry, the handler's body, return, with no other
step inside (R227, R230). -/
def State.takeInterrupt (s : State) (handler : State → State) : State :=
  (handler s.interruptEntry).interruptReturn

/-- A main-context phase is enabled only when `TICK` is not (40_tick.md R91). -/
def State.mainStep (s : State) (k : Result) : Result :=
  if s.tickEnabled then .fault .mainNotEnabled else k

/-- A single-phase command: in its phase `0` it does its one atomic step (R31). -/
def State.singlePhase (s : State) (t : State) : Result :=
  s.mainStep (if s.phase = .zero then .next t else .fault .phaseMismatch)

/-- The little-endian bytes of a number (20_memory.md R44, D19). -/
def leBytes (v : Nat) : Nat → List Byte
  | 0 => []
  | n + 1 => BitVec.ofNat 8 v :: leBytes (v / 256) n

/-- A returned value serialised into bytes; no rule reads it. R44 and D19 speak of `ret` of `NOW`
only, least significant byte first. The rest is the model's choice (DESIGN CHOICE, log 29): the byte
of `XFER` is itself, the one-bit flag of `IRQOFF` is padded to one byte, 0 or 1, and nothing gives
no bytes. -/
def retBytes : Ret → List Byte
  | .nothing => []
  | .millis m => leBytes m.toNat 8
  | .byte b => [b]
  | .flag f => leBytes f.toNat 1

end Sys2Proof.Machine
end

