-- ==== Sys2Proof/Machine/Peripherals.lean ====
section
/-!
DEFINITION. The device at the other end of the bus (spec 43_bus_transfer.md R155, R156) and the
register-model test double (45_sequencer_environment.md R203).
-/

namespace Sys2Proof.Machine

open Sys2Proof

/-- Bit of an 8-bit value that pulse number `k` (from 0) carries (30_encoding.md R63). -/
def busBit (msbFirst : Bool) (k : Nat) (b : Byte) : Bool :=
  if msbFirst then b.getLsbD (8 - 1 - k) else b.getLsbD k

/-- A shift register's content after one bit enters it (R152): `{v[6:0], d}` or `{d, v[7:1]}`. -/
def shiftIn (msbFirst : Bool) (v : Byte) (d : Bool) : Byte :=
  if msbFirst then v.extractLsb' 0 7 ++ BitVec.ofBool d
  else BitVec.ofBool d ++ v.extractLsb' 1 7

/-- The double has assembled byte `b` (R203, items 3 and 4). -/
def RegModel.byteDone (m : RegModel) (b : Byte) : RegModel :=
  if m.byteCount = 0 then
    { m with byteCount := 1, partialByte := 0, bitCount := 0, firstByte := b,
             txEmpty := m.txEmpty || b == m.table.cmdFlushTx }
  else if m.byteCount = 1 ∧ m.firstByte = m.table.cmdWrite ||| m.table.regStatus then
    { m with byteCount := 2, partialByte := 0, bitCount := 0, status := m.status &&& ~~~b }
  else { m with byteCount := m.byteCount + 1, partialByte := 0, bitCount := 0 }

/-- The double takes one bit while it is selected (R203, item 1). -/
def RegModel.takeBit (m : RegModel) (busW : Nat) (msbFirst d : Bool) : RegModel :=
  let b := shiftIn msbFirst m.partialByte d
  if lastPulse busW m.bitCount then m.byteDone b
  else { m with partialByte := b, bitCount := m.bitCount + 1 }

/-- A moment at which the double may choose to complete (R203, item 5): armed by an `ENON`, and
whether or not the enable line is still asserted, it follows the next entry of its own plan; one or
both bits of `POLL_MASK` are set in `STATUS`, once for each `ENON`, or not yet (log 8). -/
def RegModel.choose (m : RegModel) (mask : Byte) : RegModel :=
  match m.armed, m.plan with
  | true, b :: rest =>
    if b &&& mask = 0 then { m with plan := rest }
    else { m with status := m.status ||| (b &&& mask), armed := false, plan := rest }
  | _, _ => m

/-- A transaction begins (R203, item 1), a moment of choice (log 8). -/
def RegModel.select (m : RegModel) (mask : Byte) : RegModel :=
  { m.choose mask with byteCount := 0, partialByte := 0, bitCount := 0 }

/-- The first bit of a transaction is about to be exchanged. -/
def RegModel.atFirstBit (m : RegModel) : Bool := m.byteCount == 0 && m.bitCount == 0

/-- The byte answered during the first byte of a transaction (R203, item 2): `STATUS` as it stands
at the first bit, the same byte at the later ones (log 8). -/
def RegModel.replyByte (m : RegModel) : Byte := if m.atFirstBit then m.status else m.reply

/-- The double after a pulse that sent `d` while it is selected: the answered byte is kept for the
rest of it, and the bit is taken (R203, items 1 and 2). -/
def RegModel.exchange (m : RegModel) (busW : Nat) (msbFirst d : Bool) : RegModel :=
  { m with reply := m.replyByte }.takeBit busW msbFirst d

/-- The answer bit `di` to the sent bit `d` (R152, R155): the double's status during the first byte
of a transaction (R203, item 2), the listed answers, the echo, or the oracle. -/
def State.answer (s : State) (d : Bool) : Bool :=
  match s.periph with
  | .echo => d
  | .scripted (di :: _) => di
  | .regModel m =>
    if s.cs && m.byteCount == 0 then
      busBit s.cfg.busMsbFirst m.bitCount (m.choose s.cfg.pollMask).replyByte
    else Config.peripheralAnswer s.seen d
  | _ => Config.peripheralAnswer s.seen d

/-- The peripheral after a pulse that sent `d`, a moment of choice for the double (R155, R203). -/
def State.periphAfterPulse (s : State) (d : Bool) : Peripheral :=
  match s.periph with
  | .scripted (_ :: rest) => .scripted rest
  | .regModel m =>
    if s.cs then
      .regModel ((m.choose s.cfg.pollMask).exchange s.cfg.busW s.cfg.busMsbFirst d)
    else .regModel (m.choose s.cfg.pollMask)
  | _ => s.periph

/-- The peripheral after chip-select is driven to `level`, a moment of choice for the double (R155,
R203). -/
def State.periphAfterSelect (s : State) (level : Bool) : Peripheral :=
  match s.periph with
  | .regModel m =>
    .regModel (if level then m.select s.cfg.pollMask else m.choose s.cfg.pollMask)
  | _ => s.periph

/-- The peripheral after the enable line is driven to `level`: `ENON` arms the double, and both are
moments of choice for it (R155, R203 item 5). -/
def State.periphAfterEnable (s : State) (level : Bool) : Peripheral :=
  match s.periph with
  | .regModel m =>
    .regModel (if level then { m.choose s.cfg.pollMask with armed := true }
               else m.choose s.cfg.pollMask)
  | _ => s.periph

end Sys2Proof.Machine
end

