-- ==== Sys2Proof/Machine/Bus.lean ====
section
/-!
DEFINITION. The Bit-Level Bus Primitive (spec 43_bus_transfer.md): the clock pulse and `XFER`.
-/

namespace Sys2Proof.Machine

open Sys2Proof

/-- The bit presented on data-out (R152). -/
def dataOut (msbFirst : Bool) (sr : Byte) : Bool :=
  if msbFirst then sr.getLsbD 7 else sr.getLsbD 0

/-- `CountPulse` (R153); under the faulty-hardware switch the flag is never set (R159). -/
def countPulse (s : State) : State :=
  if lastPulse s.cfg.busW s.cnt then
    { s with cnt := 0, done := doneAfterLastPulse s.cfg.busFaulty s.done }
  else { s with cnt := s.cnt + 1 }

/-- The block's side of a pulse with answer bit `di`: shift and count (R152, R153). -/
def pulseWith (di : Bool) (s : State) : State :=
  countPulse { s with sr := shiftIn s.cfg.busMsbFirst s.sr di }

/-- The peripheral's side of a pulse that sent `d` (R155). -/
def State.periphPulse (s : State) (d : Bool) : State :=
  { s with periph := s.periphAfterPulse d, seen := .sentBit d :: s.seen }

/-- `PULSE` (R152): the outgoing bit is presented, the answer bit drawn, which may depend on it,
the register shifted and the pulse counted. -/
def pulse (s : State) : State :=
  let d := dataOut s.cfg.busMsbFirst s.sr
  pulseWith (s.answer d) (s.periphPulse d)

/-- `XFER b` (R157): load, clear, pulse until the flag is set, return the register. -/
def execXfer (b : Byte) (s : State) : Result :=
  s.mainStep <|
    match s.phase with
    | .x1 => .next ({ s with sr := b }.goto .x2)
    | .x2 => .next ({ s with done := false, cnt := 0 }.goto .x3)
    | .x3 => .next (if (pulse s).done then (pulse s).goto .x4 else (pulse s).stay)
    | .x4 => .next ((s.setRet (.byte s.sr)).complete)
    | _ => .fault .phaseMismatch

end Sys2Proof.Machine
end

