-- ==== Sys2Proof/Machine/Env.lean ====
section
/-!
DEFINITION. The environment operations (spec 45_sequencer_environment.md R195 to R199). They touch
no state of the block; the peripheral sees the lines (43_bus_transfer.md R155).
-/

namespace Sys2Proof.Machine

open Sys2Proof

/-- `CS <- level`, seen by the peripheral (R27, R155, R203). -/
def State.driveCs (s : State) (level : Bool) : State :=
  { s with cs := level, periph := s.periphAfterSelect level,
           seen := .chipSelect level :: s.seen }

/-- `EN <- level`, seen by the peripheral (R27, R155, R203). -/
def State.driveEn (s : State) (level : Bool) : State :=
  { s with en := level, periph := s.periphAfterEnable level,
           seen := .enableLine level :: s.seen }

/-- `CSON` (R195). -/
def execCson (s : State) : Result := s.singlePhase ((s.driveCs true).complete)

/-- `CSOFF` (R196). -/
def execCsoff (s : State) : Result := s.singlePhase ((s.driveCs false).complete)

/-- `ENON` (R197). -/
def execEnon (s : State) : Result := s.singlePhase ((s.driveEn true).complete)

/-- `ENOFF` (R198). -/
def execEnoff (s : State) : Result := s.singlePhase ((s.driveEn false).complete)

/-- `DELAY` (R199): one atomic phase that changes no state but the position. -/
def execDelay (s : State) : Result := s.singlePhase s.complete

end Sys2Proof.Machine
end

