-- ==== Sys2Proof/Machine/Irq.lean ====
section
/-!
DEFINITION. Interrupt control from the main context (spec 44_irq_control.md).
-/

namespace Sys2Proof.Machine

open Sys2Proof

/-- `IRQOFF` (R181): returns the interrupt enable and clears it. -/
def execIrqoff (s : State) : Result :=
  s.singlePhase (((s.setRet (.flag s.ie)).setIe false).complete)

/-- `IRQRST b` (R182): writes the interrupt enable. -/
def execIrqrst (b : Bool) (s : State) : Result :=
  s.singlePhase ((s.setIe b).complete)

end Sys2Proof.Machine
end

