-- ==== Sys2Proof/Machine/TimeBase.lean ====
section
/-!
DEFINITION. The Time Base (spec 41_timebase.md): the per-tick update and `NOW`.
-/

namespace Sys2Proof.Machine

open Sys2Proof

/-- The carry loop of `TimeBaseStep` (R101), at most `fuel` iterations, with `MS_UNITS` = `ms`. -/
def carryLoop (strict : Bool) (ms : Nat) : Nat → MillisWord → AccWord → MillisWord × AccWord
  | 0, m, a => (m, a)
  | fuel + 1, m, a =>
    if carryTest strict ms a then
      carryLoop strict ms fuel (m + 1) (a - BitVec.ofNat 16 ms)
    else (m, a)

/-- As many iterations as the loop can need from accumulator `a` for any `MS_UNITS` but 0, so that
it runs to its end (`carryLoop_ends` in Laws/TimeBase.lean; log 11); reachable states need at most
one (R102). -/
def carryFuel (a : AccWord) : Nat := a.toNat + 1

/-- `TimeBaseStep`, the second part of every `TICK` (R101). -/
def timeBaseStep (s : State) : State :=
  let a := s.acc + BitVec.ofNat 16 s.cfg.t0
  let r := carryLoop s.cfg.tbCarryStrict s.cfg.msUnits (carryFuel a) s.millis a
  { s with millis := r.1, acc := r.2 }

/-- `NOW` (R105): N1 saves and clears the interrupt enable, N2 reads all 64 bits of the counter,
N3 restores the saved enable and returns. -/
def execNow (s : State) : Result :=
  s.mainStep <|
    match s.phase with
    | .n1 => .next ({ s with saved := s.ie, ie := false }.goto .n2)
    | .n2 => .next ({ s with v := s.millis }.goto .n3)
    | .n3 => .next (((s.setIe s.saved).setRet (.millis s.v)).complete)
    | _ => .fault .phaseMismatch

end Sys2Proof.Machine
end

