-- ==== Sys2Proof/Machine/Uart.lean ====
section
/-!
DEFINITION. The Software UART Transmitter (spec 42_uart_tx.md): the per-tick state machine, the
serial frame, and `SENDB`. `SENDS` is `expandSends` of Decode.lean (R74, R130).
-/

namespace Sys2Proof.Machine

open Sys2Proof

/-- `UartStep`, the first part of every `TICK` (R122): start bit, data bit with a logical right
shift, or stop bit, the index incremented in all three; nothing when idle (R123). -/
def uartStep (s : State) : State :=
  if s.busy then
    if s.bitIdx = 0 then
      { s with txLine := false, bitIdx := s.bitIdx + 1 }
    else if dataPosition s.cfg.stopIdx s.bitIdx then
      { s with txLine := s.shift.getLsbD 0, shift := s.shift >>> 1, bitIdx := s.bitIdx + 1 }
    else
      { s with txLine := true, busy := false, bitIdx := s.bitIdx + 1 }
  else s

/-- The serial frame of a byte, first level first (30_encoding.md R60). -/
def frame (b : Byte) : List Bool :=
  [false, b.getLsbD 0, b.getLsbD 1, b.getLsbD 2, b.getLsbD 3, b.getLsbD 4, b.getLsbD 5,
    b.getLsbD 6, b.getLsbD 7, true]

/-- `SENDB b` (R125): phase P is one busy-wait iteration, phase L the atomic load, which faults on
a frame in flight (R126, D20). -/
def execSendb (b : Byte) (s : State) : Result :=
  s.mainStep <|
    match s.phase with
    | .p => if s.busy then .next s.stay else .next (s.goto .l)
    | .l => if s.busy then .fault .txOverrun else .next ((s.loadTx b).complete)
    | _ => .fault .phaseMismatch

end Sys2Proof.Machine
end

