-- ==== Sys2Proof/Machine/Timer.lean ====
section
/-!
DEFINITION. The periodic interrupt and its timer (spec 40_tick.md): `TICK` and `EXPIRE`.
-/

namespace Sys2Proof.Machine

open Sys2Proof

/-- The handler's body: the bit-clock logic first, the time accumulation second (R90, R51). -/
def tickBody (s : State) : State := timeBaseStep (uartStep s)

/-- `TICK` (R90), enabled exactly when `x[IE] = 1` and `x[PEND] = 1` (R91). -/
def execTick (s : State) : Result :=
  if s.tickEnabled then .next (s.takeInterrupt tickBody) else .fault .tickNotEnabled

/-- `EXPIRE` (R92), not enabled while a `TICK` is. -/
def execExpire (s : State) : Result :=
  if s.tickEnabled then .fault .expireNotEnabled else .next s.latchExpiry

end Sys2Proof.Machine
end

