-- ==== Sys2Proof/Machine/Dispatch.lean ====
section
/-!
DEFINITION. One arm per operation of the opcode map (spec 30_encoding.md R67).
-/

namespace Sys2Proof.Machine

open Sys2Proof

def exec (i : Instr) (s : State) : Host.Outcome State Fault Refusal :=
  match i with
  | .sendb b => Sys2Proof.Machine.execSendb b s
  | .xfer b => Sys2Proof.Machine.execXfer b s
  | .now => Sys2Proof.Machine.execNow s
  | .irqoff => Sys2Proof.Machine.execIrqoff s
  | .irqrst b => Sys2Proof.Machine.execIrqrst b s
  | .cson => Sys2Proof.Machine.execCson s
  | .csoff => Sys2Proof.Machine.execCsoff s
  | .enon => Sys2Proof.Machine.execEnon s
  | .enoff => Sys2Proof.Machine.execEnoff s
  | .delay => Sys2Proof.Machine.execDelay s
  | .tick => Sys2Proof.Machine.execTick s
  | .expire => Sys2Proof.Machine.execExpire s

end Sys2Proof.Machine
end

