-- ==== Sys2Proof/Machine/Fetch.lean ====
section
/-!
DEFINITION. Which agent moves next and with which operation (spec 10_state.md R31, 20_memory.md
R50, 40_tick.md R91, R92), and the check that refuses a host program as a whole (30_encoding.md
R72).
-/

namespace Sys2Proof.Machine

open Sys2Proof

/-- Why one word may not stand in a host program, if so (R69, R72). -/
def wordRefusal (w : CmdWord) : Option Refusal :=
  match decode w with
  | .error _ => some .invalidWord
  | .ok i => if i.hostWellFormed then none else some .eventInProgram

/-- Why a host program has no execution, if so: its first offending word (R72, D13). -/
def programRefusal (p : List CmdWord) : Option Refusal := p.findSome? wordRefusal

/-- Every word of the program is a host command (R69). -/
def programAccepted (p : List CmdWord) : Bool := (programRefusal p).isNone

/-- The main context has completed its last command and has no further step (R31). -/
def State.finished (s : State) : Bool := decide (s.prog.length ≤ s.idx)

/-- The command the main context stands at. -/
def State.current (s : State) : Option Instr := commandAt s.prog s.idx

/-- Whether the timer's period elapses before the next main-context phase: as the schedule lists,
and past its end a free value (R50, R92; log 4). -/
def State.timerFires (s : State) : Bool :=
  match s.sched with
  | .expire :: _ => true
  | .main :: _ => false
  | [] => Config.timerFires s.drawn

/-- The choice has been made: it leaves the schedule, or one more was drawn (log 4). -/
def State.choiceMade (s : State) : State :=
  match s.sched with
  | _ :: rest => { s with sched := rest }
  | [] => { s with drawn := s.drawn + 1 }

/-- What the next step is: no execution, or one operation of one agent. -/
inductive Pick where
  | refuse (r : Refusal)
  | run (i : Instr)
  deriving DecidableEq, Repr

/-- The next step (R50): none for a refused program (R72); `TICK` when it is enabled, before
anything else (R91); then `EXPIRE` or the next main-context phase, as the schedule chooses; only
`EXPIRE` once the main context has finished (R31, R92; log 5). -/
def State.pick (s : State) : Pick :=
  match programRefusal s.prog with
  | some r => .refuse r
  | none =>
    if s.tickEnabled then .run .tick
    else
      match s.current with
      | none => .run .expire
      | some i => if s.timerFires then .run .expire else .run i

/-- The state in which the picked operation runs: `TICK` is forced and takes no choice. -/
def State.picked (s : State) : State := if s.tickEnabled then s else s.choiceMade

/-- The machine with a host program loaded from outside, standing before its first command
(70_reset_and_hazards.md R262; log 14). -/
def State.load (s : State) (p : List CmdWord) : State :=
  { s with prog := p, idx := 0, phase := arrivalPhase p 0 }

/-- The machine with a program that lets events run: its own, if it has an execution, else the
empty one (log 14). -/
def State.acceptable (s : State) : State :=
  if programAccepted s.prog then s else s.load []

/-- The state in which the very next step is `TICK`: enabled, and not refused (R91; log 14). -/
def State.beforeTick (s : State) : State := { s.acceptable with ie := true, pend := true }

/-- The state in which the very next step is `EXPIRE`: no `TICK` enabled, and the schedule chooses
the timer (R92; log 14). -/
def State.beforeExpire (s : State) : State :=
  { s.acceptable with pend := s.pend && !s.ie, sched := .expire :: s.sched }

/-- The state in which the very next step is the first phase of the host command `w`: loaded as the
program, no `TICK` enabled, and the schedule chooses the main context (log 14). -/
def State.beforeCommand (s : State) (w : CmdWord) : State :=
  { s.load [w] with pend := s.pend && !s.ie, sched := .main :: s.sched }

/-- `s` placed so that the next step runs the operation that word `w` of `nbits` bits spells. -/
def State.placeWord (s : State) (nbits w : Nat) : State :=
  match decodeTableWord nbits w with
  | some .tick => s.beforeTick
  | some .expire => s.beforeExpire
  | _ => s.beforeCommand (BitVec.ofNat 16 (w % 2 ^ nbits))

end Sys2Proof.Machine
end

