-- ==== Sys2Proof/Machine/Step.lean ====
section
/-!
DEFINITION. One step of the machine: one atomic step of one agent (spec 00_scope.md R7, 20_memory.md
R47, R50).
-/

namespace Sys2Proof.Machine

open Sys2Proof

/-- One step: the picked operation runs in the state after the choice. -/
def step (s : State) : Host.Outcome State Fault Refusal :=
  match s.pick with
  | .refuse r => .refused r
  | .run i => exec i s.picked

/-- `s` with the given instruction placed where `step` takes its next one from (log 14). -/
def State.withFetchWord (s : State) (nbits w : Nat) : State := s.placeWord nbits w

end Sys2Proof.Machine
end

