-- ==== Sys2Proof/Machine/Sequencer.lean ====
section
/-!
DEFINITION. The Radio Command Sequencer as software of the environment (spec
45_sequencer_environment.md R190 to R202): its scripted operations as step lists with the responses
the caller keeps, for any command table (R192, R204), its completion poll (R201), and the session
that runs the poll on the machine, feeding each status byte read back into the loop. None of this is
part of the block (00_scope.md R4) and `step` does not call it: a session issues host commands and
reads `ret`.
-/

namespace Sys2Proof.Machine

open Sys2Proof

/-! ## Scripted operations -/

/-- One step of a script: a host command, and whether its response is one the caller keeps, the
`->` of R200's step lists. -/
structure ScriptStep where
  op : Instr
  keep : Bool
  deriving DecidableEq, Repr

/-- A step whose response, if any, is discarded. -/
def unkept (op : Instr) : ScriptStep := { op := op, keep := false }

/-- A transfer whose response the caller keeps. -/
def keepXfer (b : Byte) : ScriptStep := { op := .xfer b, keep := true }

/-- The host commands of a script, in order. -/
def commandsOf (l : List ScriptStep) : List Instr := l.map ScriptStep.op

/-- The shape of every scripted operation (R194): chip-select held over its transfers. -/
def bracket (body : List ScriptStep) : List ScriptStep :=
  unkept .cson :: body ++ [unkept .csoff]

/-- A transaction whose responses are all discarded: a command byte and its data bytes (R194). -/
def transaction (c : Byte) (data : List Byte) : List ScriptStep :=
  bracket ((c :: data).map fun b => unkept (.xfer b))

/-- "clear a status flag via register write" (R200). -/
def clearStatus (t : Config.CmdTable) (mask : Byte) : List ScriptStep :=
  transaction (t.cmdWrite ||| t.regStatus) [mask]

/-- "flush the transmit buffer" (R200). -/
def flushTx (t : Config.CmdTable) : List ScriptStep := transaction t.cmdFlushTx []

/-- "write a single-byte register (e.g., channel selection)" (R200). -/
def writeChannel (t : Config.CmdTable) (v : Byte) : List ScriptStep :=
  transaction (t.cmdWrite ||| t.regRfCh) [v]

/-- "issue a no-operation transfer solely to read back the status byte": the response is kept
(R200). -/
def readStatus (t : Config.CmdTable) : List ScriptStep := bracket [keepXfer t.cmdNop]

/-- "bulk-read a multi-byte address register": the `ADDR_LEN` data responses are kept, the first
byte's is not (R200). -/
def bulkRead (c : Config.Params) (t : Config.CmdTable) (reg : Byte) : List ScriptStep :=
  bracket (unkept (.xfer (t.cmdRead ||| reg)) ::
    (List.replicate c.addrLen t.dontCare).map keepXfer)

/-- "write the device configuration register" (R200). -/
def writeConfig (t : Config.CmdTable) (v : Byte) : List ScriptStep :=
  transaction (t.cmdWrite ||| t.regConfig) [v]

/-- "write 5-byte address registers", the transmit address (R200). -/
def writeTxAddr (c : Config.Params) (t : Config.CmdTable) (a : Vector Byte c.addrLen) :
    List ScriptStep :=
  transaction (t.cmdWrite ||| t.regTxAddr) a.toList

/-- "write 5-byte address registers", the receive address of pipe 0 (R200). -/
def writeRxAddr (c : Config.Params) (t : Config.CmdTable) (a : Vector Byte c.addrLen) :
    List ScriptStep :=
  transaction (t.cmdWrite ||| t.regRxAddrP0) a.toList

/-- "load a fixed-size (16-byte) transmit payload" of `PAYLOAD_LEN` bytes (R200). -/
def loadPayload (c : Config.Params) (t : Config.CmdTable) (p : Vector Byte c.payloadLen) :
    List ScriptStep :=
  transaction t.cmdLoadPayload p.toList

/-! ## The completion poll -/

/-- The exit test of the completion poll (R193, R201): success and failure are not told apart
(R202). -/
def pollDone (mask status : Byte) : Bool := status &&& mask != 0

/-- Where the completion poll stands (R201). -/
inductive PollState where
  /-- Before the enable line is asserted. -/
  | start
  /-- A status read has been issued; its kept response decides the exit. -/
  | reading
  /-- The loop has been left and the enable line de-asserted. -/
  | finished
  deriving DecidableEq, Repr

/-- One turn of the completion poll (R201): the steps the Sequencer issues next, given the status
byte of the last read. It reads first and delays after (D17), has no iteration bound, and
de-asserts the enable line once, right after the loop exit. -/
def pollTurn (c : Config.Params) (t : Config.CmdTable) (ps : PollState) (status : Byte) :
    PollState × List ScriptStep :=
  match ps with
  | .start => (.reading, unkept .enon :: readStatus t)
  | .reading =>
    if pollDone c.pollMask status then (.finished, [unkept .enoff])
    else (.reading, unkept .delay :: readStatus t)
  | .finished => (.finished, [])

/-- The steps the poll issues when its status reads return the listed bytes in turn: one unrolling
of the loop (R201, 95_test_vectors.md C6). -/
def pollRun (c : Config.Params) (t : Config.CmdTable) : PollState → List Byte → List ScriptStep
  | _, [] => []
  | ps, st :: rest => (pollTurn c t ps st).2 ++ pollRun c t (pollTurn c t ps st).1 rest

/-- The host commands of the whole poll, from its start: the enable line, the first read, and a turn
per status byte. -/
def pollCommands (c : Config.Params) (t : Config.CmdTable) (statuses : List Byte) : List Instr :=
  commandsOf ((pollTurn c t .start 0).2 ++ pollRun c t .reading statuses)

/-! ## The Sequencer's session on the machine -/

/-- One more host command issued to a main context that has completed all of its commands: it is
appended to the list, and the main context arrives at it (R31; log 21). -/
def State.issue (s : State) (i : Instr) : State :=
  { s with prog := s.prog ++ [encode i],
           phase := arrivalPhase (s.prog ++ [encode i]) s.idx }

/-- The response byte a completed `XFER` left (R157). -/
def State.response (s : State) : Byte :=
  match s.ret with
  | .byte b => b
  | _ => 0

/-- A running session of the Sequencer, one script or one poll: the machine, the steps not yet issued,
whether the step just issued is one whose response is kept, where the loop stands, and the
responses kept so far, in order (`a_1 .. a_ADDR_LEN` of a bulk read; the statuses of a poll, the last
of them R191's "polled status byte"). -/
structure Session where
  machine : State
  table : Config.CmdTable
  todo : List ScriptStep
  awaiting : Bool
  poll : PollState
  kept : List Byte
  deriving DecidableEq, Repr

/-- `status <- XFER CMD_NOP`: the response of the step just completed is kept if it is marked. -/
def Session.collect (q : Session) : Session :=
  if q.awaiting then { q with awaiting := false, kept := q.kept ++ [q.machine.response] } else q

/-- With every issued step completed and none left, the loop takes its next turn with the status
byte kept last (R201). -/
def Session.refill (q : Session) : Session :=
  match q.todo with
  | [] =>
    let r := pollTurn q.machine.cfg q.table q.poll (q.kept.getLastD 0)
    { q with poll := r.1, todo := r.2 }
  | _ :: _ => q

/-- The next step, if there is one, is issued to the machine. -/
def Session.issue (q : Session) : Session :=
  match q.todo with
  | [] => q
  | x :: rest => { q with machine := q.machine.issue x.op, todo := rest, awaiting := x.keep }

/-- What the Sequencer does when its last step has completed: keep the response, take a turn of the
loop if the script is used up, issue the next step. While a step is in progress it waits. -/
def Session.advance (q : Session) : Session :=
  if q.machine.finished then q.collect.refill.issue else q

/-- One step of the machine under a session: the Sequencer's move, which is no step of an agent,
then the step of the agent that moves. -/
def Session.step (q : Session) : Host.Outcome Session Fault Refusal :=
  match Sys2Proof.Machine.step q.advance.machine with
  | .next t => .next { q.advance with machine := t }
  | .fault r => .fault r
  | .refused r => .refused r

/-- `n` steps of a session, ending at the first stop. -/
def Session.run : Nat → Session → Host.Outcome Session Fault Refusal
  | 0, q => .next q
  | n + 1, q =>
    match q.step with
    | .next r => Session.run n r
    | .fault r => .fault r
    | .refused r => .refused r

/-- One scripted operation (R200) about to start on a machine whose commands have all completed; no
loop follows it. -/
def Session.script (s : State) (t : Config.CmdTable) (l : List ScriptStep) : Session :=
  { machine := s, table := t, todo := l, awaiting := false, poll := .finished, kept := [] }

/-- The poll about to start on a machine whose commands have all completed. -/
def Session.begin (s : State) (t : Config.CmdTable) : Session :=
  { machine := s, table := t, todo := [], awaiting := false, poll := .start, kept := [] }

end Sys2Proof.Machine
end

