-- ==== Sys2Proof/Safety.lean ====
section
/-!
DEFINITION. What claims are stated in terms of: the invariants of the machine, the launch premises
of spec 70_reset_and_hazards.md R267, and what a run shows (its operations and its line levels).
-/

namespace Sys2Proof.Machine

open Sys2Proof

/-- The parameters fit each other and the machine's fixed widths (92_eei_decisions.md, OPEN
parameters; 41_timebase.md R102). -/
abbrev State.ParamsCoherent (s : State) : Prop := s.cfg.WidthsCoherent ∧ s.cfg.TimeCoherent

/-- The accumulator's bound between ticks: below `MS_UNITS`, or at most `MS_UNITS` under
`TB_CARRY_STRICT` (10_state.md R14, 41_timebase.md R102). -/
abbrev State.AccBounded (s : State) : Prop :=
  s.acc.toNat < s.cfg.msUnits + s.cfg.tbCarryStrict.toNat

/-- The bit index stays in `0 .. BITIDX_MAX`, and below it while a byte is in flight (10_state.md
R16). -/
abbrev State.BitIdxBounded (s : State) : Prop :=
  s.bitIdx ≤ s.cfg.bitIdxMax ∧ (s.busy = true → s.bitIdx ≤ s.cfg.stopIdx)

/-- The line is high while no frame is in progress, the wait for the start bit included
(42_uart_tx.md R121, R127). -/
abbrev State.LineIdlesHigh (s : State) : Prop :=
  s.busy = false ∨ s.bitIdx = 0 → s.txLine = true

/-- The load phase is reached only with the transmitter idle (42_uart_tx.md R126). -/
abbrev State.LoadIsSafe (s : State) : Prop := s.phase = .l → s.busy = false

/-- Inside `NOW` interrupts are disabled, and the value read is the counter's (41_timebase.md
R105). -/
abbrev State.NowSection (s : State) : Prop :=
  (s.phase = .n2 ∨ s.phase = .n3 → s.ie = false) ∧ (s.phase = .n3 → s.v = s.millis)

/-- The pulse count is zero outside the pulse loop and below `BUS_W` in it; in the loop the flag is
clear, after it set (10_state.md R25, 43_bus_transfer.md R153, R157). -/
abbrev State.BusSection (s : State) : Prop :=
  (s.phase ≠ .x3 → s.cnt = 0) ∧ (s.phase = .x3 → s.cnt < s.cfg.busW ∧ s.done = false) ∧
    (s.phase = .x4 → s.done = true)

/-- The phase is one of the current command's, and the position is in or just past the list
(10_state.md R31). -/
abbrev State.PositionValid (s : State) : Prop :=
  s.idx ≤ s.prog.length ∧
    match s.current with
    | some i => s.phase ∈ phasesOf i
    | none => s.phase = .none

/-- The invariant of the machine. -/
structure State.Inv (s : State) : Prop where
  paramsCoherent : s.ParamsCoherent
  accBounded : s.AccBounded
  bitIdxBounded : s.BitIdxBounded
  lineIdlesHigh : s.LineIdlesHigh
  loadIsSafe : s.LoadIsSafe
  nowSection : s.NowSection
  busSection : s.BusSection
  positionValid : s.PositionValid

/-- Launch premise `CleanTimeBase` (R267). -/
abbrev State.CleanTimeBase (s : State) : Prop := s.millis = 0 ∧ s.acc = 0

/-- Launch premise `TxIdle` (R267). -/
abbrev State.TxIdle (s : State) : Prop := s.busy = false ∧ s.txLine = true

/-- Launch premise `IrqOn` (R267). -/
abbrev State.IrqOn (s : State) : Prop := s.ie = true ∧ s.pend = false

/-- Launch premise `NoLoss` on the start state (R267); on the whole run it is `State.NoLossOnRun`. -/
abbrev State.NoLoss (s : State) : Prop := s.lost = 0

/-- The main context is inside `NOW`, between N1 and N3 (41_timebase.md R105). -/
abbrev State.inNow (s : State) : Prop := s.phase = .n2 ∨ s.phase = .n3

/-- A frame for `b` stands before its position `k`: `k` positions have been driven, the unsent data
bits are in the low bits of `SHIFT`, and the line shows the level last driven (10_state.md R19,
30_encoding.md R60, 42_uart_tx.md R124). -/
structure State.FrameAt (s : State) (b : Byte) (k : Nat) : Prop where
  coherent : s.cfg.WidthsCoherent
  busy : s.busy = true
  inFrame : k < s.cfg.frameTicks
  bitIdx : s.bitIdx = k
  shift : s.shift = b >>> (k - 1)
  line : ∀ j, j + 1 = k → (frame b)[j]? = some s.txLine

/-- `n` steps, ending at the first stop (the host's `Core.run` of this machine:
`run_eq_core_run` in Laws/Step.lean). -/
def run : Nat → State → Result
  | 0, s => .next s
  | n + 1, s =>
    match step s with
    | .next t => run n t
    | .fault r => .fault r
    | .refused r => .refused r

/-- The operation the next step runs, if it runs one. -/
def State.nextOp (s : State) : Option Instr :=
  match s.pick with
  | .refuse _ => none
  | .run i => some i

/-- The operations of the first `n` steps of a run, in order; the run ends at a stop. -/
def runOps : Nat → State → List Instr
  | 0, _ => []
  | n + 1, s =>
    match s.nextOp, step s with
    | some i, .next t => i :: runOps n t
    | _, _ => []

/-- Premise `TimerFair` (40_tick.md R92): "the timer never stops. In an infinite execution `EXPIRE` occurs
infinitely often", so from every point of the run an `EXPIRE` is still to come. A claim about what
eventually happens carries it; `step` does not build it in (70_reset_and_hazards.md R280; log
22). -/
def State.TimerFair (s : State) : Prop :=
  ∀ (n : Nat) (t : State), run n s = .next t →
    ∃ m u, run m t = .next u ∧ Instr.expire ∈ runOps m t

/-- Premise `NoLoss` on the whole run (70_reset_and_hazards.md R267): "as a premise on the whole run,
`LOST` stays 0", at the start and after every step. A premise on schedules and programs; `step` does
not build it in (log 22). -/
def State.NoLossOnRun (s : State) : Prop :=
  ∀ (n : Nat) (t : State), run n s = .next t → t.NoLoss

/-- Premise `NowSpansAtMostOneExpiry` (70_reset_and_hazards.md R271, D16): "at most one `EXPIRE`
occurs between `NOW.N1` and `NOW.N3`", wherever in the run a `NOW` is met. A premise on schedules;
`step` does not build it in (log 22). -/
def State.NowSpansAtMostOneExpiry (s : State) : Prop :=
  ∀ (n m : Nat) (t u : State), run n s = .next t → run m t = .next u →
    (∀ k ≤ m, ∀ w, run k t = .next w → w.inNow) →
    (runOps m t).count .expire ≤ 1

/-- The level of the serial line after each `TICK` of the first `n` steps of a run: "sampling the
output line once per bit period" (40_tick.md R94). -/
def lineTrace : Nat → State → List Bool
  | 0, _ => []
  | n + 1, s =>
    match s.nextOp, step s with
    | some i, .next t => if i = .tick then t.txLine :: lineTrace n t else lineTrace n t
    | _, _ => []

/-- `f` applied `n` times. -/
def repeatStep {α : Type} (f : α → α) : Nat → α → α
  | 0, a => a
  | n + 1, a => repeatStep f n (f a)

/-- `n` phases of one host command in a row, with no step of another agent between them. -/
def execRepeat (i : Instr) : Nat → State → Result
  | 0, s => .next s
  | n + 1, s =>
    match exec i s with
    | .next t => execRepeat i n t
    | .fault r => .fault r
    | .refused r => .refused r

end Sys2Proof.Machine
end

