-- ==== Sys2Proof/Certificates/Slice0/Obligations.lean ====
section
/-!
DEFINITION. The statements for the provers. Where a docstring says "the spec's own decision", the
clause rests on a decision of spec/92_eei_decisions.md (D<n>) and on no sentence of the source
document; where it names a log entry, on the model's choice of that entry.
-/

open Sys2Proof Sys2Proof.Machine

/-! ## Encodings -/

/-- Decode and encode agree in both directions (30_encoding.md section 3; the spec's own decision
D1): a word decodes to an operation exactly when it is that operation's word, so no bit of an
accepted word is dropped. -/
def Obligations.DecodeExactlyInvertsEncode : Prop :=
  ∀ (w : CmdWord) (i : Instr), decode w = .ok i ↔ w = encode i

/-- The opcode map (30_encoding.md section 3; D1): a decoded word matches exactly the row of its
mnemonic, and a word that spells nothing matches no row. -/
def Obligations.DecoderFollowsMasksAndMatches : Prop :=
  ∀ w : CmdWord,
    match decode w with
    | .ok i => ∀ r ∈ opcodeMap, (r.accepts w = true ↔ r.mnemonic = i.mnemonic)
    | .error _ => ∀ r ∈ opcodeMap, r.accepts w = false

/-- Words written out from the encodings decode to the operations they spell, and reserved words
are refused by name (95_test_vectors.md B5; D1). -/
def Obligations.TabledWordsDecode : Prop :=
  decode 0x0141 = .ok (.sendb 0x41) ∧ decode 0x02A5 = .ok (.xfer 0xA5) ∧
  decode 0x0300 = .ok .now ∧ decode 0x0301 = .error .operandNotZero ∧
  decode 0x0400 = .ok .irqoff ∧ decode 0x0501 = .ok (.irqrst true) ∧
  decode 0x0502 = .error .flagBitsNotZero ∧ decode 0x1200 = .ok .enon ∧
  decode 0x8000 = .ok .tick ∧ decode 0x8100 = .ok .expire ∧
  decode 0x0000 = .error .unknownOpcode ∧ decode 0xFFFF = .error .unknownOpcode

/-- `SENDS s` (30_encoding.md section 5, 42_uart_tx.md section 3; what a string is, is the spec's
own decision D14): one `SENDB` per byte in order, and the words are an accepted host program that
decodes back to them. -/
def Obligations.StringExpandsToOneSendbPerByte : Prop :=
  ∀ s : List Byte,
    (∀ k : Nat, (expandSends s)[k]? = s[k]?.map Instr.sendb) ∧
    (assemble (expandSends s)).map decode? = s.map (fun c => some (.sendb c)) ∧
    programAccepted (assemble (expandSends s)) = true

/-! ## One step -/

/-- A step runs the decoded instruction: in an accepted program, with no `TICK` enabled and the
choice falling on the main context, the step is `exec` of the operation the current word spells.
`step` adds only that the choice leaves the schedule (log 4). -/
def Obligations.StepRunsDecodedCommand : Prop :=
  ∀ (s : State) (w : CmdWord) (i : Instr),
    programAccepted s.prog = true → s.prog[s.idx]? = some w → decode w = .ok i →
    s.tickEnabled = false → s.timerFires = false →
    i.hostWellFormed = true ∧ step s = exec i s.choiceMade

/-- Zero latency (40_tick.md section 1; the spec's own decision D7): an enabled `TICK` is the next
step whatever the schedule says, no other operation completes there, and after it no `TICK` is
enabled until a new expiry. -/
def Obligations.EnabledTickGoesFirst : Prop :=
  ∀ s : State, s.tickEnabled = true →
    (programAccepted s.prog = true → step s = exec .tick s) ∧
    exec .expire s = .fault .expireNotEnabled ∧
    (∀ i : Instr, i.hostWellFormed = true → exec i s = .fault .mainNotEnabled) ∧
    (∀ t, exec .tick s = .next t → t.tickEnabled = false)

/-- `TICK` is enabled exactly when `IE` and `PEND` are both 1 (40_tick.md section 1; the spec's own
decisions D6, D7): elsewhere the agent has no step. -/
def Obligations.TickCompletesExactlyWhenEnabled : Prop :=
  ∀ s : State,
    ((∃ t, exec .tick s = .next t) ↔ s.ie = true ∧ s.pend = true) ∧
    (¬(s.ie = true ∧ s.pend = true) → exec .tick s = .fault .tickNotEnabled)

/-- The timer moves when the choice falls on it, and it is the only agent with a step once the main
context has finished (10_state.md section 6, 40_tick.md section 2; D3, D6; log 4, log 5). -/
def Obligations.TimerMovesWhenChosenOrAlone : Prop :=
  ∀ s : State, programAccepted s.prog = true → s.tickEnabled = false →
    s.timerFires = true ∨ s.prog.length ≤ s.idx →
    step s = exec .expire s.choiceMade

/-- While interrupts are enabled an expiry is serviced before the main context does anything more
(40_tick.md section 1; the spec's own decision D7). -/
def Obligations.ExpiryIsServicedAtOnce : Prop :=
  ∀ s t : State, s.ie = true → programAccepted s.prog = true → exec .expire s = .next t →
    ∃ u, step t = .next u ∧ exec .tick t = .next u ∧ u.pend = false ∧ u.idx = s.idx ∧
      u.phase = s.phase

/-- A host program is refused as a whole exactly when one of its words spells no operation or is an
event word, and never for another reason (30_encoding.md section 4; the spec's own decision D13). -/
def Obligations.ProgramRefusedExactlyForBadWord : Prop :=
  ∀ s : State,
    (∃ r, step s = .refused r) ↔
      ∃ w ∈ s.prog, (∃ e, decode w = .error e) ∨ (∃ i, decode w = .ok i ∧ i.isEvent = true)

/-- The model's own interface (log 14): a word placed with `withFetchWord` is the very next
operation that runs, for every operation of the opcode map and from every state. -/
def Obligations.PlacedWordIsTheNextOperation : Prop :=
  ∀ (s : State) (i : Instr),
    (s.withFetchWord 16 (encode i).toNat).nextOp = some i ∧
    ∃ t, step (s.withFetchWord 16 (encode i).toNat) = .next t

/-! ## Reset -/

/-- The state right after start-up (10_state.md section 8): zero Time Base from the source; the
other values are the spec's own decision D4 (log 1). The registers the spec leaves unspecified are
not stated. -/
def Obligations.ResetLeavesLaunchPremises : Prop :=
  State.reset.CleanTimeBase ∧ State.reset.TxIdle ∧ State.reset.IrqOn ∧ State.reset.NoLoss ∧
  State.reset.cnt = 0 ∧ State.reset.cs = false ∧ State.reset.en = false ∧ State.reset.idx = 0

/-- The invariant holds at reset, and with any accepted host program loaded there (log 14). -/
def Obligations.InvariantHoldsAfterLoading : Prop :=
  State.reset.Inv ∧ ∀ p : List CmdWord, programAccepted p = true → (State.reset.load p).Inv

/-! ## TICK -/

/-- `TICK` clears the pending latch and runs the bit-clock logic, then the time accumulation, in one
step (40_tick.md R90): it writes nothing but `PEND`, the transmitter and the Time Base, only `PEND`
and the Time Base when idle, its loop runs at most once from a bounded accumulator, and its body
does not read the interrupt enable, the bus registers or the private values. -/
def Obligations.TickRunsBitClockThenTimeBase : Prop :=
  encode .tick = 0x8000 ∧ Instr.tick.hostWellFormed = false ∧
  ∀ s : State, s.ie = true → s.pend = true →
    exec .tick s = .next (timeBaseStep (uartStep { s with pend := false })) ∧
    (∃ line sh bz ix m a, exec .tick s =
      .next { s with pend := false, txLine := line, shift := sh, busy := bz, bitIdx := ix,
                     millis := m, acc := a }) ∧
    (s.busy = false →
      ∃ m a, exec .tick s = .next { s with pend := false, millis := m, acc := a }) ∧
    (s.cfg.TimeCoherent → s.AccBounded → ∃ m a, (m = s.millis ∨ m = s.millis + 1) ∧
      ∃ t, exec .tick s = .next t ∧ t.millis = m ∧ t.acc = a) ∧
    (∀ e r d c sv v rt,
      tickBody { s with ie := e, sr := r, done := d, cnt := c, saved := sv, v := v, ret := rt } =
        { tickBody s with ie := e, sr := r, done := d, cnt := c, saved := sv, v := v, ret := rt }) ∧
    (s.cfg.t0 = 103 → s.cfg.msUnits = 1000 → s.busy = true → s.bitIdx = 0 → s.shift = 0x41 →
      s.txLine = true → s.acc = 927 → s.millis = 0 →
      exec .tick s = .next { s with pend := false, txLine := false, bitIdx := 1, acc := 30,
                                    millis := 1 })

/-- `UartStep` in its three branches (42_uart_tx.md R122; 20_memory.md R42) and idle (R123): start bit; data bit,
least significant first, with a logical right shift; stop bit with `BUSY` cleared; nothing. The
index stays at most 9 while busy, the bits the shift fills in are never sent, and it is the part of
every `TICK` that touches the transmitter. -/
def Obligations.UartStepDrivesOnePosition : Prop :=
  ∀ s : State, s.cfg.WidthsCoherent →
    (s.busy = true → s.bitIdx = 0 →
      uartStep s = { s with txLine := false, bitIdx := 1 }) ∧
    (s.busy = true → 1 ≤ s.bitIdx → s.bitIdx ≤ 8 →
      uartStep s = { s with txLine := s.shift.getLsbD 0, shift := s.shift >>> 1,
                            bitIdx := s.bitIdx + 1 } ∧ (s.shift >>> 1).getLsbD 7 = false) ∧
    (s.busy = true → 9 ≤ s.bitIdx →
      uartStep s = { s with txLine := true, busy := false, bitIdx := s.bitIdx + 1 }) ∧
    (s.busy = false → uartStep s = s) ∧
    (s.bitIdx ≤ 9 → (uartStep s).busy = true → (uartStep s).bitIdx ≤ 9) ∧
    (s.busy = true → s.bitIdx = 0 →
      ∀ k < 8, (repeatStep uartStep (k + 2) s).txLine = s.shift.getLsbD k) ∧
    (∀ t, exec .tick s = .next t → t.txLine = (uartStep s).txLine ∧ t.shift = (uartStep s).shift ∧
      t.busy = (uartStep s).busy ∧ t.bitIdx = (uartStep s).bitIdx)

/-- `TimeBaseStep` (41_timebase.md section 1; both carry tests, the spec's own decision D11): from a
bounded accumulator at most one carry. The second clause, from any state at all the loop runs to
its end and moves whole milliseconds from the 16-bit wrapping sum to the counter, is the model's own
choice outside the bound (log 11). -/
def Obligations.TimeBaseStepCarriesWholeMilliseconds : Prop :=
  ∀ s : State,
    (s.cfg.TimeCoherent → s.AccBounded →
      timeBaseStep s =
        if s.cfg.msUnits + s.cfg.tbCarryStrict.toNat ≤ s.acc.toNat + s.cfg.t0 then
          { s with millis := s.millis + 1,
                   acc := BitVec.ofNat 16 (s.acc.toNat + s.cfg.t0 - s.cfg.msUnits) }
        else { s with acc := BitVec.ofNat 16 (s.acc.toNat + s.cfg.t0) }) ∧
    (0 < s.cfg.msUnits → ∃ k : Nat,
      (timeBaseStep s).millis = s.millis + BitVec.ofNat 64 k ∧
      (timeBaseStep s).acc.toNat + s.cfg.msUnits * k =
        (s.acc + BitVec.ofNat 16 s.cfg.t0).toNat ∧
      carryTest s.cfg.tbCarryStrict s.cfg.msUnits (timeBaseStep s).acc = false)

/-- The two halves of the handler commute (20_memory.md section 5): the order is fixed and not
observable. -/
def Obligations.HandlerHalvesCommute : Prop :=
  ∀ s : State, uartStep (timeBaseStep s) = timeBaseStep (uartStep s) ∧
    tickBody s = timeBaseStep (uartStep s)

/-- The counter is the floor of the elapsed units (41_timebase.md section 1, an inference the spec
marks as its own; `TB_CARRY_STRICT` false is decision D11): along every run from a clean Time Base,
whatever the program, the schedule and the peripheral, `MILLIS` and `ACC` are the quotient by
`MS_UNITS` (1000) and the remainder of `T0` (103) times the number of `TICK` steps. -/
def Obligations.CounterIsFloorOfElapsedUnits : Prop :=
  ∀ (n : Nat) (s t : State), s.cfg.TimeCoherent → s.CleanTimeBase → s.cfg.tbCarryStrict = false →
    run n s = .next t →
    s.cfg.t0 * (runOps n s).count .tick < s.cfg.msUnits * 2 ^ 64 →
    t.millis.toNat = s.cfg.t0 * (runOps n s).count .tick / s.cfg.msUnits ∧
    t.acc.toNat = s.cfg.t0 * (runOps n s).count .tick % s.cfg.msUnits

/-- The closed form under the strict carry test (41_timebase.md section 3, the spec's own inference
and decision D11). -/
def Obligations.StrictCounterClosedForm : Prop :=
  ∀ (n : Nat) (s t : State), s.cfg.TimeCoherent → s.CleanTimeBase → s.cfg.tbCarryStrict = true →
    run n s = .next t →
    1 ≤ (runOps n s).count .tick →
    s.cfg.t0 * (runOps n s).count .tick < s.cfg.msUnits * 2 ^ 64 →
    t.millis.toNat = (s.cfg.t0 * (runOps n s).count .tick - 1) / s.cfg.msUnits ∧
    t.acc.toNat = (s.cfg.t0 * (runOps n s).count .tick - 1) % s.cfg.msUnits + 1

/-- The Time Base moves in no step but `TICK`, and there by at most one millisecond, with the
accumulator bounded after (41_timebase.md section 1; the wrap at `2^64` is the spec's own decision
D12). -/
def Obligations.TimeBaseMovesOnlyInTick : Prop :=
  ∀ s t : State, step s = .next t →
    (s.nextOp ≠ some .tick → t.millis = s.millis ∧ t.acc = s.acc) ∧
    (s.nextOp = some .tick → s.cfg.TimeCoherent → t.AccBounded ∧
      (s.AccBounded → t.millis = s.millis ∨ t.millis = s.millis + 1))

/-- The counter never decreases along a run that does not reach its wrap (10_state.md section 2;
D12). -/
def Obligations.CounterNeverDecreases : Prop :=
  ∀ (n : Nat) (s t : State), s.cfg.TimeCoherent → s.AccBounded → s.millis.toNat + n < 2 ^ 64 →
    run n s = .next t →
    s.millis.toNat ≤ t.millis.toNat ∧ t.millis.toNat ≤ s.millis.toNat + n

/-! ## EXPIRE -/

/-- `EXPIRE` sets the pending latch and counts a lost tick when it was set, which needs interrupts
disabled; it has no step while a `TICK` is enabled (40_tick.md section 2; the spec's own decisions
D6, D16). -/
def Obligations.ExpireLatchesOneExpiry : Prop :=
  encode .expire = 0x8100 ∧ Instr.expire.hostWellFormed = false ∧
  ∀ s : State,
    (s.tickEnabled = false →
      exec .expire s = .next { s with pend := true, lost := if s.pend then s.lost + 1 else s.lost } ∧
      (s.pend = true → s.ie = false)) ∧
    (s.tickEnabled = true → exec .expire s = .fault .expireNotEnabled)

/-- Every expiry is serviced, still pending or lost (40_tick.md sections 2 and 3, the spec's own
inference from D6, D16): along every run, whatever the program and the schedule, expiries and ticks
differ only by the latch and the lost count. Under the named premise of 70_reset_and_hazards.md R267
on the whole run they differ by the latch only, and no expiry finds an earlier one pending. Under the
named premise of its R271 a `NOW` met with no expiry pending loses none. -/
def Obligations.EveryExpiryIsServicedPendingOrLost : Prop :=
  (∀ (n : Nat) (s t : State), run n s = .next t →
    (runOps n s).count .expire + s.pend.toNat + s.lost =
      (runOps n s).count .tick + t.pend.toNat + t.lost) ∧
  (∀ (n : Nat) (s t : State), s.NoLossOnRun → run n s = .next t →
    (runOps n s).count .expire + s.pend.toNat = (runOps n s).count .tick + t.pend.toNat ∧
    (t.nextOp = some .expire → t.pend = false)) ∧
  ∀ (n : Nat) (s t : State), s.NowSpansAtMostOneExpiry → s.NowSection → s.phase = .n2 →
    s.pend = false → run n s = .next t → (∀ k ≤ n, ∀ u, run k s = .next u → u.inNow) →
    t.lost = s.lost ∧ Instr.tick ∉ runOps n s

/-! ## NOW -/

/-- The three phases of `NOW` (41_timebase.md section 2; that N1 is one step is the spec's own
decision D15). -/
def Obligations.NowPhasesSaveReadRestore : Prop :=
  ∀ s : State, s.tickEnabled = false →
    (s.phase = .n1 →
      exec .now s = .next { s with saved := s.ie, ie := false, phase := .n2 }) ∧
    (s.phase = .n2 → exec .now s = .next { s with v := s.millis, phase := .n3 }) ∧
    (s.phase = .n3 →
      exec .now s = .next { s with ie := s.saved, ret := .millis s.v, idx := s.idx + 1,
                                   phase := arrivalPhase s.prog (s.idx + 1) })

/-- `NOW` with nothing in between returns the counter and leaves every element as it was, the
interrupt enable restored and not enabled (41_timebase.md section 2; D15). -/
def Obligations.NowReturnsCounterAndRestoresEnable : Prop :=
  ∀ s : State, s.tickEnabled = false → s.phase = .n1 →
    execRepeat .now 3 s =
      .next { s with saved := s.ie, v := s.millis, ret := .millis s.millis, idx := s.idx + 1,
                     phase := arrivalPhase s.prog (s.idx + 1) }

/-- Between N1 and N3 the counter is frozen whatever step is taken (41_timebase.md section 2,
20_memory.md section 4; D15): no `TICK` occurs, only the timer or `NOW` itself moves, and the
operation that completes returns the value the counter still has. -/
def Obligations.NowCriticalSectionFreezesCounter : Prop :=
  ∀ s t : State, s.NowSection → s.phase = .n2 ∨ s.phase = .n3 →
    step s = .next t →
    t.millis = s.millis ∧ t.acc = s.acc ∧ t.saved = s.saved ∧ t.NowSection ∧
    (s.nextOp = some .expire ∨ s.nextOp = some .now) ∧
    (s.phase = .n3 → s.nextOp = some .now → t.ret = .millis t.millis ∧ t.ie = s.saved)

/-! ## SENDB and the serial line -/

/-- `SENDB` (42_uart_tx.md section 2): a poll reads `BUSY` and writes nothing but the position; the
load writes `SHIFT`, `BITIDX` and `BUSY` in one step; a load on a frame in flight is a fault (the
spec's own decision D20). -/
def Obligations.SendbPollsThenLoads : Prop :=
  ∀ (b : Byte) (s : State), s.tickEnabled = false →
    (s.phase = .p → s.busy = true → exec (.sendb b) s = .next s) ∧
    (s.phase = .p → s.busy = false → exec (.sendb b) s = .next { s with phase := .l }) ∧
    (s.phase = .l → s.busy = false →
      exec (.sendb b) s =
        .next { s with shift := b, bitIdx := 0, busy := true, idx := s.idx + 1,
                       phase := arrivalPhase s.prog (s.idx + 1) }) ∧
    (s.phase = .l → s.busy = true → exec (.sendb b) s = .fault .txOverrun)

/-- The load phase is never met with a frame in flight (42_uart_tx.md section 2, the spec's own
inference): the property is kept by every step, and under it no step overruns. -/
def Obligations.TransmitterOverrunIsUnreachable : Prop :=
  ∀ s : State, s.LoadIsSafe →
    step s ≠ .fault .txOverrun ∧ ∀ t, step s = .next t → t.LoadIsSafe

/-- The level at each position of the frame (30_encoding.md R60): the `TICK` taken at index `k`
drives position `k` of `frame(b)`, the tenth ends the frame, the level holds until the next `TICK`,
and an idle line keeps its level. -/
def Obligations.FramePositionsHoldUntilNextTick : Prop :=
  (∀ b : Byte, frame b = [false, b.getLsbD 0, b.getLsbD 1, b.getLsbD 2, b.getLsbD 3,
    b.getLsbD 4, b.getLsbD 5, b.getLsbD 6, b.getLsbD 7, true]) ∧
  (∀ (s t : State) (b : Byte) (k : Nat), s.FrameAt b k → exec .tick s = .next t →
    s.bitIdx = k ∧ (frame b)[k]? = some t.txLine ∧ (t.busy = false ↔ k = 9)) ∧
  (∀ s t : State, s.busy = false → step s = .next t → t.txLine = s.txLine) ∧
  (∀ s t : State, step s = .next t → s.nextOp ≠ some .tick → t.txLine = s.txLine)

/-- One frame, tick by tick (42_uart_tx.md section 1, the spec's own inference): the index, the
busy flag, the shift buffer and the line after each of ten ticks, and no change at the eleventh. -/
def Obligations.FrameTickByTick : Prop :=
  ∀ (s : State) (b : Byte), s.cfg.WidthsCoherent → s.busy = true → s.bitIdx = 0 → s.shift = b →
    (∀ k ≤ 10, (repeatStep uartStep k s).bitIdx = k ∧
      ((repeatStep uartStep k s).busy = true ↔ k < 10) ∧
      (repeatStep uartStep k s).shift = b >>> (min k 9 - 1)) ∧
    (∀ k < 10, (frame b)[k]? = some (repeatStep uartStep (k + 1) s).txLine) ∧
    (∀ k, repeatStep uartStep (10 + k) s = repeatStep uartStep 10 s)

/-- A frame in flight is moved by `TICK` and by nothing else (10_state.md section 2, 42_uart_tx.md
section 1, the spec's own inference): every other step leaves it at its position, a `TICK` advances
it by one, and the tenth drives the stop bit and clears `BUSY`. -/
def Obligations.FrameInFlightMovesOnlyByTick : Prop :=
  ∀ (s t : State) (b : Byte) (k : Nat), s.LoadIsSafe → s.FrameAt b k → step s = .next t →
    (s.nextOp ≠ some .tick → t.FrameAt b k) ∧
    (s.nextOp = some .tick → k < 9 → t.FrameAt b (k + 1)) ∧
    (s.nextOp = some .tick → k = 9 → t.busy = false ∧ t.txLine = true ∧ t.bitIdx = 10)

/-- The serial line shows the byte's frame (30_encoding.md section 1, 95_test_vectors.md A2; the
inference over runs is the spec's own): from the load of `b`, along every run, whatever the rest of
the program, the schedule and the peripheral, the first ten levels sampled after the ticks are
`frame(b)` in order. -/
def Obligations.SampledLineIsTheFrame : Prop :=
  ∀ (n : Nat) (s : State) (b : Byte), s.LoadIsSafe → s.FrameAt b 0 →
    (lineTrace n s).take 10 <+: frame b

/-- A set `BUSY` is cleared by the tick that ends the frame and not before: after `10 - BITIDX`
ticks (20_memory.md section 6, the spec's own inference). -/
def Obligations.BusyClearsWithinTenTicks : Prop :=
  ∀ s : State, s.cfg.WidthsCoherent → s.busy = true → s.bitIdx ≤ 9 →
    (repeatStep tickBody (10 - s.bitIdx) s).busy = false ∧
    (repeatStep tickBody (10 - s.bitIdx) s).txLine = true ∧
    ∀ k < 10 - s.bitIdx, (repeatStep tickBody k s).busy = true

/-- The accepted deadlock (42_uart_tx.md R128): the poll repeats while `BUSY` is set and ends when it
is clear, only `TICK` clears it, in any run at most ten `TICK` steps do, and with interrupts disabled the poll goes on for
ever, every step of it a next state, with no timeout, while the frame never moves. -/
def Obligations.DisabledInterruptsHangSendb : Prop :=
  (∀ (b : Byte) (s : State), s.tickEnabled = false → s.phase = .p → s.busy = true →
    exec (.sendb b) s = .next s) ∧
  (∀ (b : Byte) (s : State), s.tickEnabled = false → s.phase = .p → s.busy = false →
    exec (.sendb b) s = .next { s with phase := .l }) ∧
  (∀ s t : State, step s = .next t → s.busy = true → t.busy = false → s.nextOp = some .tick) ∧
  (∀ (n : Nat) (s t : State), s.cfg.WidthsCoherent → s.busy = true → s.bitIdx ≤ 9 →
    run n s = .next t → 10 ≤ (runOps n s).count .tick →
    ∃ m u, m ≤ n ∧ run m s = .next u ∧ (runOps m s).count .tick ≤ 10 ∧ u.busy = false) ∧
  ∀ (n : Nat) (s : State) (b : Byte), programAccepted s.prog = true → s.current = some (.sendb b) →
    s.phase = .p → s.busy = true → s.ie = false →
    ∃ t, run n s = .next t ∧ t.idx = s.idx ∧ t.phase = .p ∧ t.busy = true ∧ t.ie = false ∧
      t.txLine = s.txLine ∧ t.bitIdx = s.bitIdx ∧ t.shift = s.shift ∧ t.millis = s.millis ∧
      Instr.tick ∉ runOps n s

/-- Together with `IE` = 1, the fairness of the timer makes the busy-wait of `SENDB` end
(40_tick.md section 2, 42_uart_tx.md section 2; the enabling of the events is the spec's own
decisions D6, D7): under the named premise `TimerFair` a poll met with a byte in flight comes, after
exactly the ticks its frame still needs, to a state where `BUSY` is clear and the poll can go on. -/
def Obligations.FairTimerEndsBusyWait : Prop :=
  ∀ (s : State) (b : Byte), s.TimerFair → programAccepted s.prog = true → s.cfg.WidthsCoherent →
    s.current = some (.sendb b) → s.phase = .p → s.busy = true → s.bitIdx ≤ 9 → s.ie = true →
    ∃ n t, run n s = .next t ∧ (runOps n s).count .tick = 10 - s.bitIdx ∧
      t.busy = false ∧ t.txLine = true ∧ t.ie = true ∧ t.idx = s.idx ∧ t.phase = .p ∧
      t.prog = s.prog

/-! ## XFER and the bus -/

/-- The four phases of `XFER` (43_bus_transfer.md section 2; the count cleared with the flag is the
spec's own decision D9). -/
def Obligations.XferLoadsClearsPulsesReturns : Prop :=
  ∀ (b : Byte) (s : State), s.tickEnabled = false →
    (s.phase = .x1 → exec (.xfer b) s = .next { s with sr := b, phase := .x2 }) ∧
    (s.phase = .x2 → exec (.xfer b) s = .next { s with done := false, cnt := 0, phase := .x3 }) ∧
    (s.phase = .x3 →
      exec (.xfer b) s = .next { pulse s with phase := if (pulse s).done then .x4 else .x3 }) ∧
    (s.phase = .x4 →
      exec (.xfer b) s = .next { s with ret := .byte s.sr, idx := s.idx + 1,
                                        phase := arrivalPhase s.prog (s.idx + 1) })

/-- `PULSE` and `CountPulse` (43_bus_transfer.md section 1; the bit order, the count and the pulse
as one step are the spec's own decisions D8, D9, D10): the outgoing bit is shown to the peripheral,
the answer bit enters at the other end, the last pulse of `BUS_W` sets the flag and wraps the count.
That the count moves in the same way on faulty hardware is the model's own choice (log 17). -/
def Obligations.PulseShiftsOneBitEachWay : Prop :=
  ∀ s : State,
    (pulse s).seen =
      .sentBit (if s.cfg.busMsbFirst then s.sr.getLsbD 7 else s.sr.getLsbD 0) :: s.seen ∧
    (∃ di : Bool,
      (∀ k, k < 7 →
        (s.cfg.busMsbFirst = true → (pulse s).sr.getLsbD (k + 1) = s.sr.getLsbD k) ∧
        (s.cfg.busMsbFirst = false → (pulse s).sr.getLsbD k = s.sr.getLsbD (k + 1))) ∧
      (s.cfg.busMsbFirst = true → (pulse s).sr.getLsbD 0 = di) ∧
      (s.cfg.busMsbFirst = false → (pulse s).sr.getLsbD 7 = di) ∧
      (∀ d rest, s.periph = .scripted (d :: rest) → di = d ∧ (pulse s).periph = .scripted rest)) ∧
    (s.cnt + 1 = s.cfg.busW →
      (pulse s).cnt = 0 ∧ (s.cfg.busFaulty = false → (pulse s).done = true)) ∧
    (s.cnt + 1 ≠ s.cfg.busW → (pulse s).cnt = s.cnt + 1 ∧ (pulse s).done = s.done) ∧
    ∃ r d c p e, pulse s = { s with sr := r, done := d, cnt := c, periph := p, seen := e }

/-- Eight pulses (43_bus_transfer.md section 1, the spec's own inference): for every peripheral the
bits sent are those of the outgoing byte in bus order, the flag sets at the eighth and not before,
and a listed answer takes in the returned byte the position its pulse had. -/
def Obligations.EightPulsesExchangeOneByte : Prop :=
  ∀ s : State, s.cfg.WidthsCoherent → s.cnt = 0 → s.done = false → s.cfg.busFaulty = false →
    (repeatStep pulse 8 s).cnt = 0 ∧ (repeatStep pulse 8 s).done = true ∧
    (∀ k < 8, (repeatStep pulse k s).done = false) ∧
    (∀ k < 8, (repeatStep pulse 8 s).seen[7 - k]? =
      some (.sentBit (busBit s.cfg.busMsbFirst k s.sr))) ∧
    (repeatStep pulse 8 s).seen.drop 8 = s.seen ∧
    ∀ answers : List Bool, 8 ≤ answers.length → s.periph = .scripted answers →
      ∀ k < 8, answers[k]? = some (busBit s.cfg.busMsbFirst k (repeatStep pulse 8 s).sr)

/-- `XFER` on working hardware takes exactly eleven phases, for every operand, every leftover of
`SR`, `DONE` and `CNT` and every peripheral, touches nothing but the bus, and returns the byte the
peripheral answered (43_bus_transfer.md section 2, the spec's own inference). -/
def Obligations.XferReturnsAnsweredByteInElevenPhases : Prop :=
  ∀ (b : Byte) (s : State), s.cfg.WidthsCoherent → s.tickEnabled = false → s.phase = .x1 →
    s.cfg.busFaulty = false →
    ∃ (r : Byte) (p : Peripheral) (e : List Config.BusEvent),
      execRepeat (.xfer b) 11 s =
        .next { s with sr := r, done := true, cnt := 0, ret := .byte r, periph := p,
                       seen := e ++ s.seen, idx := s.idx + 1,
                       phase := arrivalPhase s.prog (s.idx + 1) } ∧
      (∀ n < 11, ∃ t, execRepeat (.xfer b) n s = .next t ∧ t.idx = s.idx) ∧
      e = (List.range 8).reverse.map (fun k => .sentBit (busBit s.cfg.busMsbFirst k b)) ∧
      ∀ answers : List Bool, 8 ≤ answers.length → s.periph = .scripted answers →
        p = .scripted (answers.drop 8) ∧
        ∀ k < 8, answers[k]? = some (busBit s.cfg.busMsbFirst k r)

/-- With the echo double `transfer(x) == x`, in both bit orders (43_bus_transfer.md section 1,
95_test_vectors.md A4; the spec's own inference). -/
def Obligations.EchoTransferReturnsItsOperand : Prop :=
  ∀ (b : Byte) (s : State), s.cfg.WidthsCoherent → s.tickEnabled = false → s.phase = .x1 →
    s.cfg.busFaulty = false → s.periph = .echo →
    ∃ t, execRepeat (.xfer b) 11 s = .next t ∧ t.ret = .byte b ∧ t.sr = b ∧ t.idx = s.idx + 1

/-- Faulty hardware hangs the caller for ever, every step a next state (43_bus_transfer.md section
2, the optional switch; log 9, log 17). -/
def Obligations.FaultyBusHangsTransfer : Prop :=
  ∀ (n : Nat) (b : Byte) (s : State), s.tickEnabled = false → s.phase = .x3 → s.done = false →
    s.cfg.busFaulty = true →
    ∃ t, execRepeat (.xfer b) n s = .next t ∧ t.phase = .x3 ∧ t.done = false ∧ t.idx = s.idx

/-- A `TICK` commutes with every phase of `XFER` (43_bus_transfer.md section 2, the spec's own
inference): the handler before or after the phase gives the same state. -/
def Obligations.TickCommutesWithTransfer : Prop :=
  ∀ (b : Byte) (s t : State), exec (.xfer b) s = .next t →
    exec (.xfer b) (tickBody s) = .next (tickBody t)

/-- What the bus carries never reaches the rest of the machine (43_bus_transfer.md sections 1 and
2, the spec's own inference): of two states that differ only in the peripheral, its past, the shift
register and the returned value, the same step is taken and the results differ only there. The
returned value differs only as the last phase of `XFER` gives it: `IRQOFF` and the last phase of
`NOW` return the same value in both, and every other step leaves it alone (the model's own reading,
log 15). So along every run the same operations happen and the serial line shows the same levels. -/
def Obligations.BusDataNeverLeaksIntoTheBlock : Prop :=
  (∀ (s t : State) (p : Peripheral) (e : List Config.BusEvent) (r : Byte) (v : Ret),
    step s = .next t →
    ∃ p' e' r' v', step { s with periph := p, seen := e, sr := r, ret := v } =
        .next { t with periph := p', seen := e', sr := r', ret := v' } ∧
      ({ s with periph := p, seen := e, sr := r, ret := v } : State).nextOp = s.nextOp ∧
      (((∃ b, s.nextOp = some (.xfer b)) ∧ s.phase = .x4 ∧
          t.ret = .byte s.sr ∧ v' = .byte r) ∨
        ((s.nextOp = some .irqoff ∨ s.nextOp = some .now ∧ s.phase = .n3) ∧ v' = t.ret) ∨
        (¬((∃ b, s.nextOp = some (.xfer b)) ∧ s.phase = .x4) ∧
          s.nextOp ≠ some .irqoff ∧ ¬(s.nextOp = some .now ∧ s.phase = .n3) ∧
          t.ret = s.ret ∧ v' = v))) ∧
  ∀ (n : Nat) (s t : State) (p : Peripheral) (e : List Config.BusEvent) (r : Byte) (v : Ret),
    run n s = .next t →
    ∃ p' e' r' v', run n { s with periph := p, seen := e, sr := r, ret := v } =
        .next { t with periph := p', seen := e', sr := r', ret := v' } ∧
      runOps n { s with periph := p, seen := e, sr := r, ret := v } = runOps n s ∧
      lineTrace n { s with periph := p, seen := e, sr := r, ret := v } = lineTrace n s

/-! ## Interrupt control -/

/-- `IRQOFF` (44_irq_control.md R181): returns the previous enable and clears it, with its encoding;
while the enable is clear no `TICK` is enabled, and an expiry is still latched; closing the section
with the returned value restores the enable; with the enable already clear it returns 0 and changes
nothing else. -/
def Obligations.IrqoffSavesAndDisables : Prop :=
  encode .irqoff = 0x0400 ∧
  ∀ s : State, s.tickEnabled = false → s.phase = .zero →
    ∃ t, exec .irqoff s = .next t ∧
      t = { s with ret := .flag s.ie, ie := false, idx := s.idx + 1,
                   phase := arrivalPhase s.prog (s.idx + 1) } ∧
      t.tickEnabled = false ∧ exec .tick t = .fault .tickNotEnabled ∧
      (∃ u, exec .expire t = .next u ∧ u.pend = true ∧ u.ie = false ∧ u.tickEnabled = false) ∧
      (∀ u : State, u.ie = false → exec .tick u = .fault .tickNotEnabled) ∧
      (t.phase = .zero → ∃ u, exec (.irqrst s.ie) t = .next u ∧ u.ie = s.ie) ∧
      (s.ie = false →
        t = { s with ret := .flag false, idx := s.idx + 1,
                     phase := arrivalPhase s.prog (s.idx + 1) })

/-- `IRQRST s` (44_irq_control.md R182): writes the enable, with its two encodings; with `s = 1` and
an expiry pending the next step is `TICK`; with `s = 0` interrupts stay disabled. -/
def Obligations.IrqrstRestoresEnable : Prop :=
  encode (.irqrst false) = 0x0500 ∧ encode (.irqrst true) = 0x0501 ∧
  ∀ (b : Bool) (s : State), s.tickEnabled = false → s.phase = .zero →
    ∃ t, exec (.irqrst b) s = .next t ∧
      t = { s with ie := b, idx := s.idx + 1, phase := arrivalPhase s.prog (s.idx + 1) } ∧
      (b = true → s.pend = true → programAccepted s.prog = true → t.nextOp = some .tick) ∧
      (b = false → t.ie = false ∧ t.tickEnabled = false)

/-- The interrupt enable has exactly three writers, and `NOW` restores it before it returns
(44_irq_control.md R180). -/
def Obligations.InterruptEnableHasThreeWriters : Prop :=
  (∀ (i : Instr) (s t : State), exec i s = .next t → t.ie ≠ s.ie →
    i = .now ∨ i = .irqoff ∨ ∃ b, i = .irqrst b) ∧
  (∃ s t, exec .now s = .next t ∧ t.ie ≠ s.ie) ∧ (∃ s t, exec .irqoff s = .next t ∧ t.ie ≠ s.ie) ∧
  (∃ b s t, exec (.irqrst b) s = .next t ∧ t.ie ≠ s.ie) ∧
  ∀ s : State, s.tickEnabled = false → s.phase = .n1 →
    ∃ t, execRepeat .now 3 s = .next t ∧ t.idx = s.idx + 1 ∧ t.ie = s.ie

/-- A disabled section freezes what the handler writes (20_memory.md R53): while `IE` is 0 no `TICK`
occurs, and the Time Base, the line and the transmitter keep their values whatever step is taken,
but for the main context's own load of a `SENDB`; only `IRQOFF`, `IRQRST 0` and `NOW` open a
section, only `IRQRST 1` and the last phase of `NOW` end it; an expiry is still latched in it, and the bus works in it as outside it. -/
def Obligations.DisabledSectionFreezesHandlerState : Prop :=
  (∀ s t : State, s.ie = true → step s = .next t → t.ie = false →
    s.nextOp = some .irqoff ∨ s.nextOp = some (.irqrst false) ∨ s.nextOp = some .now) ∧
  ∀ s : State, s.ie = false →
    (∀ t, step s = .next t →
      s.nextOp ≠ some .tick ∧ t.millis = s.millis ∧ t.acc = s.acc ∧ t.txLine = s.txLine ∧
      ((t.busy = s.busy ∧ t.bitIdx = s.bitIdx ∧ t.shift = s.shift) ∨
        ∃ b, s.nextOp = some (.sendb b) ∧ s.phase = .l ∧ s.busy = false ∧
          t.busy = true ∧ t.bitIdx = 0 ∧ t.shift = b) ∧
      (t.ie = true → s.nextOp = some (.irqrst true) ∨ (s.nextOp = some .now ∧ s.phase = .n3))) ∧
    (∃ u, exec .expire s = .next u ∧ u.pend = true ∧ u.ie = false) ∧
    ∀ b u, exec (.xfer b) s = .next u →
      exec (.xfer b) { s with ie := true, pend := false } =
        .next { u with ie := true, pend := false }

/-! ## The environment -/

/-- `CSON` and `CSOFF` (45_sequencer_environment.md section 2; the abstract levels are the spec's own
decision D18; the peripheral sees the line, log 27; what the register-model double does with it, log
8). -/
def Obligations.ChipSelectOperationsDriveCs : Prop :=
  encode .cson = 0x1000 ∧ encode .csoff = 0x1100 ∧
  ∀ s : State, s.tickEnabled = false → s.phase = .zero →
    exec .cson s = .next { s with cs := true, periph := s.periphAfterSelect true,
                                  seen := .chipSelect true :: s.seen, idx := s.idx + 1,
                                  phase := arrivalPhase s.prog (s.idx + 1) } ∧
    exec .csoff s = .next { s with cs := false, periph := s.periphAfterSelect false,
                                   seen := .chipSelect false :: s.seen, idx := s.idx + 1,
                                   phase := arrivalPhase s.prog (s.idx + 1) } ∧
    ((∀ m, s.periph ≠ .regModel m) → ∀ b, s.periphAfterSelect b = s.periph)

/-- `ENON` and `ENOFF` (45_sequencer_environment.md section 2; D18; the peripheral sees the line,
log 27; what the register-model double does with it, log 8). -/
def Obligations.EnableOperationsDriveEn : Prop :=
  encode .enon = 0x1200 ∧ encode .enoff = 0x1300 ∧
  ∀ s : State, s.tickEnabled = false → s.phase = .zero →
    exec .enon s = .next { s with en := true, periph := s.periphAfterEnable true,
                                  seen := .enableLine true :: s.seen, idx := s.idx + 1,
                                  phase := arrivalPhase s.prog (s.idx + 1) } ∧
    exec .enoff s = .next { s with en := false, periph := s.periphAfterEnable false,
                                   seen := .enableLine false :: s.seen, idx := s.idx + 1,
                                   phase := arrivalPhase s.prog (s.idx + 1) } ∧
    ((∀ m, s.periph ≠ .regModel m) → ∀ b, s.periphAfterEnable b = s.periph)

/-- `DELAY` completes and changes nothing but the position (45_sequencer_environment.md section 2;
the spec's own decision D17). -/
def Obligations.DelayOnlyAdvancesPosition : Prop :=
  encode .delay = 0x1400 ∧
  ∀ s : State, s.tickEnabled = false → s.phase = .zero →
    exec .delay s = .next { s with idx := s.idx + 1, phase := arrivalPhase s.prog (s.idx + 1) }

/-- The write-to-clear scenario (45_sequencer_environment.md section 4, 95_test_vectors.md A5; the
double is the model's reading, log 8): with the register-model double freshly selected, the first
transfer returns one value its status register held, whatever moments the double chooses, and with
no completion still to come a second transfer after `WRITE|STATUS_REG` clears exactly the status
bits of its operand, in both bit orders and for every command table. -/
def Obligations.WriteToClearScenario : Prop :=
  ∀ (s : State) (d : RegModel) (mask : Byte),
    s.cfg.WidthsCoherent → s.tickEnabled = false → s.phase = .x1 → s.cfg.busFaulty = false →
    s.cs = true → s.periph = .regModel d → d.byteCount = 0 → d.bitCount = 0 →
    commandAt s.prog (s.idx + 1) = some (.xfer mask) →
    (∀ b, ∃ t, execRepeat (.xfer b) 11 s = .next t ∧
      t.ret = .byte (d.choose s.cfg.pollMask).status) ∧
    (d.armed = false →
      ∃ t u dt du, execRepeat (.xfer (d.table.cmdWrite ||| d.table.regStatus)) 11 s = .next t ∧
        t.ret = .byte d.status ∧ t.periph = .regModel dt ∧ dt.status = d.status ∧
        execRepeat (.xfer mask) 11 t = .next u ∧ u.periph = .regModel du ∧
        du.status = d.status &&& ~~~mask)

/-- The flush command is idempotent on the register-model double (45_sequencer_environment.md
section 4, 95_test_vectors.md A7; log 8): a second flush transaction, with no completion still to
come, leaves the double as the first did, its transmit buffer empty. -/
def Obligations.FlushIsIdempotent : Prop :=
  ∀ (d : RegModel) (mask : Byte), d.armed = false →
    ((d.select mask).byteDone d.table.cmdFlushTx).txEmpty = true ∧
    ((((d.select mask).byteDone d.table.cmdFlushTx).select mask).byteDone d.table.cmdFlushTx) =
      (d.select mask).byteDone d.table.cmdFlushTx

/-- The completion poll's commands (45_sequencer_environment.md section 3), for a list of the
statuses read: a status read is one no-operation transaction, the loop ends on the first status with
a bit of `POLL_MASK`, that is with the data-sent or the retry-limit flag, the enable line is
de-asserted exactly once, right after the loop exit, and there is no iteration bound. The read
before the delay is the spec's own decision D17; the poll as a function of the statuses is the
model's choice (log 21). -/
def Obligations.PollEndsOnFirstCompletedStatus : Prop :=
  ∀ (c : Config.Params) (tbl : Config.CmdTable),
    commandsOf (readStatus tbl) = [.cson, .xfer tbl.cmdNop, .csoff] ∧
    (tbl.FlagsCoherent c.pollMask → ∀ status : Byte, status &&& c.pollMask ≠ 0 ↔
      status &&& tbl.stDataSent ≠ 0 ∨ status &&& tbl.stMaxRetry ≠ 0) ∧
    ∀ before : List Byte, (∀ x ∈ before, x &&& c.pollMask = 0) →
      pollCommands c tbl before =
        (.enon :: commandsOf (readStatus tbl)) ++
          (before.map fun _ => .delay :: commandsOf (readStatus tbl)).flatten ∧
      Instr.enoff ∉ pollCommands c tbl before ∧
      ∀ (status : Byte) (after : List Byte), status &&& c.pollMask ≠ 0 →
        pollCommands c tbl (before ++ status :: after) = pollCommands c tbl before ++ [.enoff] ∧
        (pollCommands c tbl (before ++ status :: after)).count .enoff = 1

/-- The completion poll on the machine (45_sequencer_environment.md section 3; the session is the
model's own form of the Sequencer, log 21; the read before the delay is the spec's decision D17):
along every run of a session the commands issued and still to be issued are the poll's for the
status bytes the machine has returned, the poll goes on while every status taken is incomplete, and
it has ended exactly on the first complete one. The kept statuses are those the machine returned:
when an awaited transfer has completed, the byte it left in `ret` is kept, and at no other moment is
a byte kept. -/
def Obligations.MachineRunsThePoll : Prop :=
  ∀ (n : Nat) (s : State) (tbl : Config.CmdTable) (q : Session),
    s.idx = s.prog.length → Session.run (n + 1) (Session.begin s tbl) = .next q →
    (q.awaiting = true → q.machine.finished = true →
      ∃ r, q.machine.ret = .byte r ∧ q.advance.kept = q.kept ++ [r]) ∧
    (¬(q.awaiting = true ∧ q.machine.finished = true) → q.advance.kept = q.kept) ∧
    (∀ q', q.step = .next q' → q'.kept = q.advance.kept) ∧
    ∃ used rest : List Byte, q.kept = used ++ rest ∧ rest.length ≤ 1 ∧
      q.machine.prog ++ assemble (commandsOf q.todo) =
        s.prog ++ assemble (pollCommands s.cfg tbl used) ∧
      ((q.poll = .reading ∧ ∀ x ∈ used, x &&& s.cfg.pollMask = 0) ∨
        (q.poll = .finished ∧ rest = [] ∧ ∃ before status, used = before ++ [status] ∧
          (∀ x ∈ before, x &&& s.cfg.pollMask = 0) ∧ status &&& s.cfg.pollMask ≠ 0))

/-! ## The whole machine -/

/-- The complete write sets (46_control_and_access.md section 2, the spec's own inference): no
operation changes an element outside its row of the table. -/
def Obligations.ElementsChangeOnlyAsTabled : Prop :=
  ∀ (i : Instr) (s t : State), exec i s = .next t →
    ∀ e : Element, e ∉ writeSet i → t.read e = s.read e

/-- The frame outside the eleven elements (10_state.md sections 5 and 6, 60_exceptions.md section 4;
D3, D7): no operation changes the command list or the parameters; each environment line, private
value and counter is changed by its owner only; events leave the main context frozen. That a command
without a result leaves `ret` as it was is the model's own reading (log 15); that no operation moves
the schedule or the count of draws, which are the model's own fields, is its own choice (log 4). -/
def Obligations.OnlyOwnersChangeTheRest : Prop :=
  ∀ (i : Instr) (s t : State), exec i s = .next t →
    t.prog = s.prog ∧ t.cfg = s.cfg ∧ t.sched = s.sched ∧ t.drawn = s.drawn ∧
    (i ≠ .cson → i ≠ .csoff → t.cs = s.cs) ∧ (i ≠ .enon → i ≠ .enoff → t.en = s.en) ∧
    (i ≠ .expire → t.lost = s.lost) ∧ (i ≠ .now → t.saved = s.saved ∧ t.v = s.v) ∧
    (i ≠ .now → i ≠ .irqoff → (∀ b, i ≠ .xfer b) → t.ret = s.ret) ∧
    (i ≠ .cson → i ≠ .csoff → i ≠ .enon → i ≠ .enoff → (∀ b, i ≠ .xfer b) →
      t.periph = s.periph ∧ t.seen = s.seen) ∧
    (i.isEvent = true → t.idx = s.idx ∧ t.phase = s.phase) ∧
    (t.idx = s.idx ∨ t.idx = s.idx + 1)

/-- What sets and clears each of the four flags (10_state.md section 3): no step changes one
otherwise. -/
def Obligations.FlagsChangeOnlyAsTabled : Prop :=
  ∀ s t : State, s.NowSection → step s = .next t →
    (s.busy = false → t.busy = true → s.phase = .l ∧ ∃ b, s.nextOp = some (.sendb b)) ∧
    (s.busy = true → t.busy = false → s.nextOp = some .tick ∧ s.cfg.stopIdx ≤ s.bitIdx) ∧
    (s.done = false → t.done = true →
      s.phase = .x3 ∧ s.cnt + 1 = s.cfg.busW ∧ ∃ b, s.nextOp = some (.xfer b)) ∧
    (s.done = true → t.done = false → s.phase = .x2 ∧ ∃ b, s.nextOp = some (.xfer b)) ∧
    (s.ie = false → t.ie = true → s.nextOp = some (.irqrst true) ∨
      (s.nextOp = some .now ∧ s.phase = .n3 ∧ s.saved = true)) ∧
    (s.ie = true → t.ie = false → s.nextOp = some .irqoff ∨ s.nextOp = some (.irqrst false) ∨
      (s.nextOp = some .now ∧ s.phase = .n1)) ∧
    (s.pend = false → t.pend = true → s.nextOp = some .expire) ∧
    (s.pend = true → t.pend = false → s.nextOp = some .tick)

/-- The command list and the parameters are immutable along every run (20_memory.md section 7; the
spec's own decision D3; log 9). -/
def Obligations.ProgramAndParametersAreImmutable : Prop :=
  ∀ (n : Nat) (s t : State), run n s = .next t → t.prog = s.prog ∧ t.cfg = s.cfg

/-- Every step keeps the machine's invariant (10_state.md sections 2 and 6, 41_timebase.md,
42_uart_tx.md, 43_bus_transfer.md; the spec's own inferences): the accumulator and the bit index in
range, the parameters coherent, the line high between frames, safe loads, the critical section of `NOW`, the pulse count, and
a position within the program. -/
def Obligations.EveryStepKeepsInvariant : Prop :=
  ∀ s t : State, s.Inv → step s = .next t → t.Inv

/-- The block never stops (60_exceptions.md section 1, 70_reset_and_hazards.md section 1; D3): with
an accepted program every run of every length from an invariant state goes on, with no exception, no
fault and no end. -/
def Obligations.AcceptedProgramNeverStops : Prop :=
  ∀ (n : Nat) (s : State), s.Inv → programAccepted s.prog = true → ∃ t, run n s = .next t ∧ t.Inv
end

