-- ==== Sys2Proof/Laws/State.lean ====
section
/-!
SUPPORT. One lemma per field per named update of the state, all true by `rfl`, so that no proof
unfolds a record update; and what the choice of the next agent leaves alone.
-/

namespace Sys2Proof.Machine

open Sys2Proof

variable (s : State)

@[simp] theorem goto_millis (ph : Phase) : (s.goto ph).millis = s.millis := rfl
@[simp] theorem goto_acc (ph : Phase) : (s.goto ph).acc = s.acc := rfl
@[simp] theorem goto_busy (ph : Phase) : (s.goto ph).busy = s.busy := rfl
@[simp] theorem goto_bitIdx (ph : Phase) : (s.goto ph).bitIdx = s.bitIdx := rfl
@[simp] theorem goto_shift (ph : Phase) : (s.goto ph).shift = s.shift := rfl
@[simp] theorem goto_txLine (ph : Phase) : (s.goto ph).txLine = s.txLine := rfl
@[simp] theorem goto_ie (ph : Phase) : (s.goto ph).ie = s.ie := rfl
@[simp] theorem goto_pend (ph : Phase) : (s.goto ph).pend = s.pend := rfl
@[simp] theorem goto_sr (ph : Phase) : (s.goto ph).sr = s.sr := rfl
@[simp] theorem goto_done (ph : Phase) : (s.goto ph).done = s.done := rfl
@[simp] theorem goto_cnt (ph : Phase) : (s.goto ph).cnt = s.cnt := rfl
@[simp] theorem goto_cs (ph : Phase) : (s.goto ph).cs = s.cs := rfl
@[simp] theorem goto_en (ph : Phase) : (s.goto ph).en = s.en := rfl
@[simp] theorem goto_lost (ph : Phase) : (s.goto ph).lost = s.lost := rfl
@[simp] theorem goto_prog (ph : Phase) : (s.goto ph).prog = s.prog := rfl
@[simp] theorem goto_idx (ph : Phase) : (s.goto ph).idx = s.idx := rfl
@[simp] theorem goto_phase (ph : Phase) : (s.goto ph).phase = ph := rfl
@[simp] theorem goto_saved (ph : Phase) : (s.goto ph).saved = s.saved := rfl
@[simp] theorem goto_v (ph : Phase) : (s.goto ph).v = s.v := rfl
@[simp] theorem goto_ret (ph : Phase) : (s.goto ph).ret = s.ret := rfl
@[simp] theorem goto_cfg (ph : Phase) : (s.goto ph).cfg = s.cfg := rfl
@[simp] theorem goto_periph (ph : Phase) : (s.goto ph).periph = s.periph := rfl
@[simp] theorem goto_seen (ph : Phase) : (s.goto ph).seen = s.seen := rfl
@[simp] theorem goto_sched (ph : Phase) : (s.goto ph).sched = s.sched := rfl
@[simp] theorem goto_drawn (ph : Phase) : (s.goto ph).drawn = s.drawn := rfl
@[simp] theorem goto_tickEnabled (ph : Phase) : (s.goto ph).tickEnabled = s.tickEnabled := rfl
@[simp] theorem goto_current (ph : Phase) : (s.goto ph).current = s.current := rfl

@[simp] theorem complete_millis : s.complete.millis = s.millis := rfl
@[simp] theorem complete_acc : s.complete.acc = s.acc := rfl
@[simp] theorem complete_busy : s.complete.busy = s.busy := rfl
@[simp] theorem complete_bitIdx : s.complete.bitIdx = s.bitIdx := rfl
@[simp] theorem complete_shift : s.complete.shift = s.shift := rfl
@[simp] theorem complete_txLine : s.complete.txLine = s.txLine := rfl
@[simp] theorem complete_ie : s.complete.ie = s.ie := rfl
@[simp] theorem complete_pend : s.complete.pend = s.pend := rfl
@[simp] theorem complete_sr : s.complete.sr = s.sr := rfl
@[simp] theorem complete_done : s.complete.done = s.done := rfl
@[simp] theorem complete_cnt : s.complete.cnt = s.cnt := rfl
@[simp] theorem complete_cs : s.complete.cs = s.cs := rfl
@[simp] theorem complete_en : s.complete.en = s.en := rfl
@[simp] theorem complete_lost : s.complete.lost = s.lost := rfl
@[simp] theorem complete_prog : s.complete.prog = s.prog := rfl
@[simp] theorem complete_idx : s.complete.idx = s.idx + 1 := rfl
@[simp] theorem complete_phase : s.complete.phase = arrivalPhase s.prog (s.idx + 1) := rfl
@[simp] theorem complete_saved : s.complete.saved = s.saved := rfl
@[simp] theorem complete_v : s.complete.v = s.v := rfl
@[simp] theorem complete_ret : s.complete.ret = s.ret := rfl
@[simp] theorem complete_cfg : s.complete.cfg = s.cfg := rfl
@[simp] theorem complete_periph : s.complete.periph = s.periph := rfl
@[simp] theorem complete_seen : s.complete.seen = s.seen := rfl
@[simp] theorem complete_sched : s.complete.sched = s.sched := rfl
@[simp] theorem complete_drawn : s.complete.drawn = s.drawn := rfl
@[simp] theorem complete_tickEnabled : s.complete.tickEnabled = s.tickEnabled := rfl

@[simp] theorem setRet_millis (r : Ret) : (s.setRet r).millis = s.millis := rfl
@[simp] theorem setRet_acc (r : Ret) : (s.setRet r).acc = s.acc := rfl
@[simp] theorem setRet_busy (r : Ret) : (s.setRet r).busy = s.busy := rfl
@[simp] theorem setRet_bitIdx (r : Ret) : (s.setRet r).bitIdx = s.bitIdx := rfl
@[simp] theorem setRet_shift (r : Ret) : (s.setRet r).shift = s.shift := rfl
@[simp] theorem setRet_txLine (r : Ret) : (s.setRet r).txLine = s.txLine := rfl
@[simp] theorem setRet_ie (r : Ret) : (s.setRet r).ie = s.ie := rfl
@[simp] theorem setRet_pend (r : Ret) : (s.setRet r).pend = s.pend := rfl
@[simp] theorem setRet_sr (r : Ret) : (s.setRet r).sr = s.sr := rfl
@[simp] theorem setRet_done (r : Ret) : (s.setRet r).done = s.done := rfl
@[simp] theorem setRet_cnt (r : Ret) : (s.setRet r).cnt = s.cnt := rfl
@[simp] theorem setRet_cs (r : Ret) : (s.setRet r).cs = s.cs := rfl
@[simp] theorem setRet_en (r : Ret) : (s.setRet r).en = s.en := rfl
@[simp] theorem setRet_lost (r : Ret) : (s.setRet r).lost = s.lost := rfl
@[simp] theorem setRet_prog (r : Ret) : (s.setRet r).prog = s.prog := rfl
@[simp] theorem setRet_idx (r : Ret) : (s.setRet r).idx = s.idx := rfl
@[simp] theorem setRet_phase (r : Ret) : (s.setRet r).phase = s.phase := rfl
@[simp] theorem setRet_saved (r : Ret) : (s.setRet r).saved = s.saved := rfl
@[simp] theorem setRet_v (r : Ret) : (s.setRet r).v = s.v := rfl
@[simp] theorem setRet_ret (r : Ret) : (s.setRet r).ret = r := rfl
@[simp] theorem setRet_cfg (r : Ret) : (s.setRet r).cfg = s.cfg := rfl
@[simp] theorem setRet_periph (r : Ret) : (s.setRet r).periph = s.periph := rfl
@[simp] theorem setRet_seen (r : Ret) : (s.setRet r).seen = s.seen := rfl
@[simp] theorem setRet_sched (r : Ret) : (s.setRet r).sched = s.sched := rfl
@[simp] theorem setRet_drawn (r : Ret) : (s.setRet r).drawn = s.drawn := rfl
@[simp] theorem setRet_tickEnabled (r : Ret) : (s.setRet r).tickEnabled = s.tickEnabled := rfl
@[simp] theorem setRet_current (r : Ret) : (s.setRet r).current = s.current := rfl

@[simp] theorem setIe_millis (b : Bool) : (s.setIe b).millis = s.millis := rfl
@[simp] theorem setIe_acc (b : Bool) : (s.setIe b).acc = s.acc := rfl
@[simp] theorem setIe_busy (b : Bool) : (s.setIe b).busy = s.busy := rfl
@[simp] theorem setIe_bitIdx (b : Bool) : (s.setIe b).bitIdx = s.bitIdx := rfl
@[simp] theorem setIe_shift (b : Bool) : (s.setIe b).shift = s.shift := rfl
@[simp] theorem setIe_txLine (b : Bool) : (s.setIe b).txLine = s.txLine := rfl
@[simp] theorem setIe_ie (b : Bool) : (s.setIe b).ie = b := rfl
@[simp] theorem setIe_pend (b : Bool) : (s.setIe b).pend = s.pend := rfl
@[simp] theorem setIe_sr (b : Bool) : (s.setIe b).sr = s.sr := rfl
@[simp] theorem setIe_done (b : Bool) : (s.setIe b).done = s.done := rfl
@[simp] theorem setIe_cnt (b : Bool) : (s.setIe b).cnt = s.cnt := rfl
@[simp] theorem setIe_cs (b : Bool) : (s.setIe b).cs = s.cs := rfl
@[simp] theorem setIe_en (b : Bool) : (s.setIe b).en = s.en := rfl
@[simp] theorem setIe_lost (b : Bool) : (s.setIe b).lost = s.lost := rfl
@[simp] theorem setIe_prog (b : Bool) : (s.setIe b).prog = s.prog := rfl
@[simp] theorem setIe_idx (b : Bool) : (s.setIe b).idx = s.idx := rfl
@[simp] theorem setIe_phase (b : Bool) : (s.setIe b).phase = s.phase := rfl
@[simp] theorem setIe_saved (b : Bool) : (s.setIe b).saved = s.saved := rfl
@[simp] theorem setIe_v (b : Bool) : (s.setIe b).v = s.v := rfl
@[simp] theorem setIe_ret (b : Bool) : (s.setIe b).ret = s.ret := rfl
@[simp] theorem setIe_cfg (b : Bool) : (s.setIe b).cfg = s.cfg := rfl
@[simp] theorem setIe_periph (b : Bool) : (s.setIe b).periph = s.periph := rfl
@[simp] theorem setIe_seen (b : Bool) : (s.setIe b).seen = s.seen := rfl
@[simp] theorem setIe_sched (b : Bool) : (s.setIe b).sched = s.sched := rfl
@[simp] theorem setIe_drawn (b : Bool) : (s.setIe b).drawn = s.drawn := rfl
@[simp] theorem setIe_current (b : Bool) : (s.setIe b).current = s.current := rfl

@[simp] theorem loadTx_millis (b : Byte) : (s.loadTx b).millis = s.millis := rfl
@[simp] theorem loadTx_acc (b : Byte) : (s.loadTx b).acc = s.acc := rfl
@[simp] theorem loadTx_busy (b : Byte) : (s.loadTx b).busy = true := rfl
@[simp] theorem loadTx_bitIdx (b : Byte) : (s.loadTx b).bitIdx = 0 := rfl
@[simp] theorem loadTx_shift (b : Byte) : (s.loadTx b).shift = b := rfl
@[simp] theorem loadTx_txLine (b : Byte) : (s.loadTx b).txLine = s.txLine := rfl
@[simp] theorem loadTx_ie (b : Byte) : (s.loadTx b).ie = s.ie := rfl
@[simp] theorem loadTx_pend (b : Byte) : (s.loadTx b).pend = s.pend := rfl
@[simp] theorem loadTx_sr (b : Byte) : (s.loadTx b).sr = s.sr := rfl
@[simp] theorem loadTx_done (b : Byte) : (s.loadTx b).done = s.done := rfl
@[simp] theorem loadTx_cnt (b : Byte) : (s.loadTx b).cnt = s.cnt := rfl
@[simp] theorem loadTx_cs (b : Byte) : (s.loadTx b).cs = s.cs := rfl
@[simp] theorem loadTx_en (b : Byte) : (s.loadTx b).en = s.en := rfl
@[simp] theorem loadTx_lost (b : Byte) : (s.loadTx b).lost = s.lost := rfl
@[simp] theorem loadTx_prog (b : Byte) : (s.loadTx b).prog = s.prog := rfl
@[simp] theorem loadTx_idx (b : Byte) : (s.loadTx b).idx = s.idx := rfl
@[simp] theorem loadTx_phase (b : Byte) : (s.loadTx b).phase = s.phase := rfl
@[simp] theorem loadTx_saved (b : Byte) : (s.loadTx b).saved = s.saved := rfl
@[simp] theorem loadTx_v (b : Byte) : (s.loadTx b).v = s.v := rfl
@[simp] theorem loadTx_ret (b : Byte) : (s.loadTx b).ret = s.ret := rfl
@[simp] theorem loadTx_cfg (b : Byte) : (s.loadTx b).cfg = s.cfg := rfl
@[simp] theorem loadTx_periph (b : Byte) : (s.loadTx b).periph = s.periph := rfl
@[simp] theorem loadTx_seen (b : Byte) : (s.loadTx b).seen = s.seen := rfl
@[simp] theorem loadTx_sched (b : Byte) : (s.loadTx b).sched = s.sched := rfl
@[simp] theorem loadTx_drawn (b : Byte) : (s.loadTx b).drawn = s.drawn := rfl
@[simp] theorem loadTx_tickEnabled (b : Byte) : (s.loadTx b).tickEnabled = s.tickEnabled := rfl
@[simp] theorem loadTx_current (b : Byte) : (s.loadTx b).current = s.current := rfl

@[simp] theorem latchExpiry_millis : s.latchExpiry.millis = s.millis := rfl
@[simp] theorem latchExpiry_acc : s.latchExpiry.acc = s.acc := rfl
@[simp] theorem latchExpiry_busy : s.latchExpiry.busy = s.busy := rfl
@[simp] theorem latchExpiry_bitIdx : s.latchExpiry.bitIdx = s.bitIdx := rfl
@[simp] theorem latchExpiry_shift : s.latchExpiry.shift = s.shift := rfl
@[simp] theorem latchExpiry_txLine : s.latchExpiry.txLine = s.txLine := rfl
@[simp] theorem latchExpiry_ie : s.latchExpiry.ie = s.ie := rfl
@[simp] theorem latchExpiry_pend : s.latchExpiry.pend = true := rfl
@[simp] theorem latchExpiry_sr : s.latchExpiry.sr = s.sr := rfl
@[simp] theorem latchExpiry_done : s.latchExpiry.done = s.done := rfl
@[simp] theorem latchExpiry_cnt : s.latchExpiry.cnt = s.cnt := rfl
@[simp] theorem latchExpiry_cs : s.latchExpiry.cs = s.cs := rfl
@[simp] theorem latchExpiry_en : s.latchExpiry.en = s.en := rfl
@[simp] theorem latchExpiry_lost : s.latchExpiry.lost = lostAfterExpire s.pend s.lost := rfl
@[simp] theorem latchExpiry_prog : s.latchExpiry.prog = s.prog := rfl
@[simp] theorem latchExpiry_idx : s.latchExpiry.idx = s.idx := rfl
@[simp] theorem latchExpiry_phase : s.latchExpiry.phase = s.phase := rfl
@[simp] theorem latchExpiry_saved : s.latchExpiry.saved = s.saved := rfl
@[simp] theorem latchExpiry_v : s.latchExpiry.v = s.v := rfl
@[simp] theorem latchExpiry_ret : s.latchExpiry.ret = s.ret := rfl
@[simp] theorem latchExpiry_cfg : s.latchExpiry.cfg = s.cfg := rfl
@[simp] theorem latchExpiry_periph : s.latchExpiry.periph = s.periph := rfl
@[simp] theorem latchExpiry_seen : s.latchExpiry.seen = s.seen := rfl
@[simp] theorem latchExpiry_sched : s.latchExpiry.sched = s.sched := rfl
@[simp] theorem latchExpiry_drawn : s.latchExpiry.drawn = s.drawn := rfl
@[simp] theorem latchExpiry_current : s.latchExpiry.current = s.current := rfl

@[simp] theorem interruptEntry_millis : s.interruptEntry.millis = s.millis := rfl
@[simp] theorem interruptEntry_acc : s.interruptEntry.acc = s.acc := rfl
@[simp] theorem interruptEntry_busy : s.interruptEntry.busy = s.busy := rfl
@[simp] theorem interruptEntry_bitIdx : s.interruptEntry.bitIdx = s.bitIdx := rfl
@[simp] theorem interruptEntry_shift : s.interruptEntry.shift = s.shift := rfl
@[simp] theorem interruptEntry_txLine : s.interruptEntry.txLine = s.txLine := rfl
@[simp] theorem interruptEntry_ie : s.interruptEntry.ie = s.ie := rfl
@[simp] theorem interruptEntry_pend : s.interruptEntry.pend = false := rfl
@[simp] theorem interruptEntry_sr : s.interruptEntry.sr = s.sr := rfl
@[simp] theorem interruptEntry_done : s.interruptEntry.done = s.done := rfl
@[simp] theorem interruptEntry_cnt : s.interruptEntry.cnt = s.cnt := rfl
@[simp] theorem interruptEntry_cs : s.interruptEntry.cs = s.cs := rfl
@[simp] theorem interruptEntry_en : s.interruptEntry.en = s.en := rfl
@[simp] theorem interruptEntry_lost : s.interruptEntry.lost = s.lost := rfl
@[simp] theorem interruptEntry_prog : s.interruptEntry.prog = s.prog := rfl
@[simp] theorem interruptEntry_idx : s.interruptEntry.idx = s.idx := rfl
@[simp] theorem interruptEntry_phase : s.interruptEntry.phase = s.phase := rfl
@[simp] theorem interruptEntry_saved : s.interruptEntry.saved = s.saved := rfl
@[simp] theorem interruptEntry_v : s.interruptEntry.v = s.v := rfl
@[simp] theorem interruptEntry_ret : s.interruptEntry.ret = s.ret := rfl
@[simp] theorem interruptEntry_cfg : s.interruptEntry.cfg = s.cfg := rfl
@[simp] theorem interruptEntry_periph : s.interruptEntry.periph = s.periph := rfl
@[simp] theorem interruptEntry_seen : s.interruptEntry.seen = s.seen := rfl
@[simp] theorem interruptEntry_sched : s.interruptEntry.sched = s.sched := rfl
@[simp] theorem interruptEntry_drawn : s.interruptEntry.drawn = s.drawn := rfl
@[simp] theorem interruptEntry_current : s.interruptEntry.current = s.current := rfl

@[simp] theorem driveCs_millis (b : Bool) : (s.driveCs b).millis = s.millis := rfl
@[simp] theorem driveCs_acc (b : Bool) : (s.driveCs b).acc = s.acc := rfl
@[simp] theorem driveCs_busy (b : Bool) : (s.driveCs b).busy = s.busy := rfl
@[simp] theorem driveCs_bitIdx (b : Bool) : (s.driveCs b).bitIdx = s.bitIdx := rfl
@[simp] theorem driveCs_shift (b : Bool) : (s.driveCs b).shift = s.shift := rfl
@[simp] theorem driveCs_txLine (b : Bool) : (s.driveCs b).txLine = s.txLine := rfl
@[simp] theorem driveCs_ie (b : Bool) : (s.driveCs b).ie = s.ie := rfl
@[simp] theorem driveCs_pend (b : Bool) : (s.driveCs b).pend = s.pend := rfl
@[simp] theorem driveCs_sr (b : Bool) : (s.driveCs b).sr = s.sr := rfl
@[simp] theorem driveCs_done (b : Bool) : (s.driveCs b).done = s.done := rfl
@[simp] theorem driveCs_cnt (b : Bool) : (s.driveCs b).cnt = s.cnt := rfl
@[simp] theorem driveCs_cs (b : Bool) : (s.driveCs b).cs = b := rfl
@[simp] theorem driveCs_en (b : Bool) : (s.driveCs b).en = s.en := rfl
@[simp] theorem driveCs_lost (b : Bool) : (s.driveCs b).lost = s.lost := rfl
@[simp] theorem driveCs_prog (b : Bool) : (s.driveCs b).prog = s.prog := rfl
@[simp] theorem driveCs_idx (b : Bool) : (s.driveCs b).idx = s.idx := rfl
@[simp] theorem driveCs_phase (b : Bool) : (s.driveCs b).phase = s.phase := rfl
@[simp] theorem driveCs_saved (b : Bool) : (s.driveCs b).saved = s.saved := rfl
@[simp] theorem driveCs_v (b : Bool) : (s.driveCs b).v = s.v := rfl
@[simp] theorem driveCs_ret (b : Bool) : (s.driveCs b).ret = s.ret := rfl
@[simp] theorem driveCs_cfg (b : Bool) : (s.driveCs b).cfg = s.cfg := rfl
@[simp] theorem driveCs_periph (b : Bool) : (s.driveCs b).periph = s.periphAfterSelect b := rfl
@[simp] theorem driveCs_seen (b : Bool) : (s.driveCs b).seen = .chipSelect b :: s.seen := rfl
@[simp] theorem driveCs_sched (b : Bool) : (s.driveCs b).sched = s.sched := rfl
@[simp] theorem driveCs_drawn (b : Bool) : (s.driveCs b).drawn = s.drawn := rfl
@[simp] theorem driveCs_tickEnabled (b : Bool) : (s.driveCs b).tickEnabled = s.tickEnabled := rfl
@[simp] theorem driveCs_current (b : Bool) : (s.driveCs b).current = s.current := rfl

@[simp] theorem driveEn_millis (b : Bool) : (s.driveEn b).millis = s.millis := rfl
@[simp] theorem driveEn_acc (b : Bool) : (s.driveEn b).acc = s.acc := rfl
@[simp] theorem driveEn_busy (b : Bool) : (s.driveEn b).busy = s.busy := rfl
@[simp] theorem driveEn_bitIdx (b : Bool) : (s.driveEn b).bitIdx = s.bitIdx := rfl
@[simp] theorem driveEn_shift (b : Bool) : (s.driveEn b).shift = s.shift := rfl
@[simp] theorem driveEn_txLine (b : Bool) : (s.driveEn b).txLine = s.txLine := rfl
@[simp] theorem driveEn_ie (b : Bool) : (s.driveEn b).ie = s.ie := rfl
@[simp] theorem driveEn_pend (b : Bool) : (s.driveEn b).pend = s.pend := rfl
@[simp] theorem driveEn_sr (b : Bool) : (s.driveEn b).sr = s.sr := rfl
@[simp] theorem driveEn_done (b : Bool) : (s.driveEn b).done = s.done := rfl
@[simp] theorem driveEn_cnt (b : Bool) : (s.driveEn b).cnt = s.cnt := rfl
@[simp] theorem driveEn_cs (b : Bool) : (s.driveEn b).cs = s.cs := rfl
@[simp] theorem driveEn_en (b : Bool) : (s.driveEn b).en = b := rfl
@[simp] theorem driveEn_lost (b : Bool) : (s.driveEn b).lost = s.lost := rfl
@[simp] theorem driveEn_prog (b : Bool) : (s.driveEn b).prog = s.prog := rfl
@[simp] theorem driveEn_idx (b : Bool) : (s.driveEn b).idx = s.idx := rfl
@[simp] theorem driveEn_phase (b : Bool) : (s.driveEn b).phase = s.phase := rfl
@[simp] theorem driveEn_saved (b : Bool) : (s.driveEn b).saved = s.saved := rfl
@[simp] theorem driveEn_v (b : Bool) : (s.driveEn b).v = s.v := rfl
@[simp] theorem driveEn_ret (b : Bool) : (s.driveEn b).ret = s.ret := rfl
@[simp] theorem driveEn_cfg (b : Bool) : (s.driveEn b).cfg = s.cfg := rfl
@[simp] theorem driveEn_periph (b : Bool) : (s.driveEn b).periph = s.periphAfterEnable b := rfl
@[simp] theorem driveEn_seen (b : Bool) : (s.driveEn b).seen = .enableLine b :: s.seen := rfl
@[simp] theorem driveEn_sched (b : Bool) : (s.driveEn b).sched = s.sched := rfl
@[simp] theorem driveEn_drawn (b : Bool) : (s.driveEn b).drawn = s.drawn := rfl
@[simp] theorem driveEn_tickEnabled (b : Bool) : (s.driveEn b).tickEnabled = s.tickEnabled := rfl
@[simp] theorem driveEn_current (b : Bool) : (s.driveEn b).current = s.current := rfl

@[simp] theorem periphPulse_millis (d : Bool) : (s.periphPulse d).millis = s.millis := rfl
@[simp] theorem periphPulse_acc (d : Bool) : (s.periphPulse d).acc = s.acc := rfl
@[simp] theorem periphPulse_busy (d : Bool) : (s.periphPulse d).busy = s.busy := rfl
@[simp] theorem periphPulse_bitIdx (d : Bool) : (s.periphPulse d).bitIdx = s.bitIdx := rfl
@[simp] theorem periphPulse_shift (d : Bool) : (s.periphPulse d).shift = s.shift := rfl
@[simp] theorem periphPulse_txLine (d : Bool) : (s.periphPulse d).txLine = s.txLine := rfl
@[simp] theorem periphPulse_ie (d : Bool) : (s.periphPulse d).ie = s.ie := rfl
@[simp] theorem periphPulse_pend (d : Bool) : (s.periphPulse d).pend = s.pend := rfl
@[simp] theorem periphPulse_sr (d : Bool) : (s.periphPulse d).sr = s.sr := rfl
@[simp] theorem periphPulse_done (d : Bool) : (s.periphPulse d).done = s.done := rfl
@[simp] theorem periphPulse_cnt (d : Bool) : (s.periphPulse d).cnt = s.cnt := rfl
@[simp] theorem periphPulse_cs (d : Bool) : (s.periphPulse d).cs = s.cs := rfl
@[simp] theorem periphPulse_en (d : Bool) : (s.periphPulse d).en = s.en := rfl
@[simp] theorem periphPulse_lost (d : Bool) : (s.periphPulse d).lost = s.lost := rfl
@[simp] theorem periphPulse_prog (d : Bool) : (s.periphPulse d).prog = s.prog := rfl
@[simp] theorem periphPulse_idx (d : Bool) : (s.periphPulse d).idx = s.idx := rfl
@[simp] theorem periphPulse_phase (d : Bool) : (s.periphPulse d).phase = s.phase := rfl
@[simp] theorem periphPulse_saved (d : Bool) : (s.periphPulse d).saved = s.saved := rfl
@[simp] theorem periphPulse_v (d : Bool) : (s.periphPulse d).v = s.v := rfl
@[simp] theorem periphPulse_ret (d : Bool) : (s.periphPulse d).ret = s.ret := rfl
@[simp] theorem periphPulse_cfg (d : Bool) : (s.periphPulse d).cfg = s.cfg := rfl
@[simp] theorem periphPulse_periph (d : Bool) : (s.periphPulse d).periph = s.periphAfterPulse d := rfl
@[simp] theorem periphPulse_seen (d : Bool) : (s.periphPulse d).seen = .sentBit d :: s.seen := rfl
@[simp] theorem periphPulse_sched (d : Bool) : (s.periphPulse d).sched = s.sched := rfl
@[simp] theorem periphPulse_drawn (d : Bool) : (s.periphPulse d).drawn = s.drawn := rfl
@[simp] theorem periphPulse_tickEnabled (d : Bool) : (s.periphPulse d).tickEnabled = s.tickEnabled := rfl
@[simp] theorem periphPulse_current (d : Bool) : (s.periphPulse d).current = s.current := rfl

@[simp] theorem stay_eq : s.stay = s := rfl

@[simp] theorem interruptReturn_eq : s.interruptReturn = s := rfl

@[simp] theorem choiceMade_millis : s.choiceMade.millis = s.millis := by
  unfold State.choiceMade; split <;> rfl
@[simp] theorem picked_millis : s.picked.millis = s.millis := by
  unfold State.picked; split <;> simp
@[simp] theorem choiceMade_acc : s.choiceMade.acc = s.acc := by
  unfold State.choiceMade; split <;> rfl
@[simp] theorem picked_acc : s.picked.acc = s.acc := by
  unfold State.picked; split <;> simp
@[simp] theorem choiceMade_busy : s.choiceMade.busy = s.busy := by
  unfold State.choiceMade; split <;> rfl
@[simp] theorem picked_busy : s.picked.busy = s.busy := by
  unfold State.picked; split <;> simp
@[simp] theorem choiceMade_bitIdx : s.choiceMade.bitIdx = s.bitIdx := by
  unfold State.choiceMade; split <;> rfl
@[simp] theorem picked_bitIdx : s.picked.bitIdx = s.bitIdx := by
  unfold State.picked; split <;> simp
@[simp] theorem choiceMade_shift : s.choiceMade.shift = s.shift := by
  unfold State.choiceMade; split <;> rfl
@[simp] theorem picked_shift : s.picked.shift = s.shift := by
  unfold State.picked; split <;> simp
@[simp] theorem choiceMade_txLine : s.choiceMade.txLine = s.txLine := by
  unfold State.choiceMade; split <;> rfl
@[simp] theorem picked_txLine : s.picked.txLine = s.txLine := by
  unfold State.picked; split <;> simp
@[simp] theorem choiceMade_ie : s.choiceMade.ie = s.ie := by
  unfold State.choiceMade; split <;> rfl
@[simp] theorem picked_ie : s.picked.ie = s.ie := by
  unfold State.picked; split <;> simp
@[simp] theorem choiceMade_pend : s.choiceMade.pend = s.pend := by
  unfold State.choiceMade; split <;> rfl
@[simp] theorem picked_pend : s.picked.pend = s.pend := by
  unfold State.picked; split <;> simp
@[simp] theorem choiceMade_sr : s.choiceMade.sr = s.sr := by
  unfold State.choiceMade; split <;> rfl
@[simp] theorem picked_sr : s.picked.sr = s.sr := by
  unfold State.picked; split <;> simp
@[simp] theorem choiceMade_done : s.choiceMade.done = s.done := by
  unfold State.choiceMade; split <;> rfl
@[simp] theorem picked_done : s.picked.done = s.done := by
  unfold State.picked; split <;> simp
@[simp] theorem choiceMade_cnt : s.choiceMade.cnt = s.cnt := by
  unfold State.choiceMade; split <;> rfl
@[simp] theorem picked_cnt : s.picked.cnt = s.cnt := by
  unfold State.picked; split <;> simp
@[simp] theorem choiceMade_cs : s.choiceMade.cs = s.cs := by
  unfold State.choiceMade; split <;> rfl
@[simp] theorem picked_cs : s.picked.cs = s.cs := by
  unfold State.picked; split <;> simp
@[simp] theorem choiceMade_en : s.choiceMade.en = s.en := by
  unfold State.choiceMade; split <;> rfl
@[simp] theorem picked_en : s.picked.en = s.en := by
  unfold State.picked; split <;> simp
@[simp] theorem choiceMade_lost : s.choiceMade.lost = s.lost := by
  unfold State.choiceMade; split <;> rfl
@[simp] theorem picked_lost : s.picked.lost = s.lost := by
  unfold State.picked; split <;> simp
@[simp] theorem choiceMade_prog : s.choiceMade.prog = s.prog := by
  unfold State.choiceMade; split <;> rfl
@[simp] theorem picked_prog : s.picked.prog = s.prog := by
  unfold State.picked; split <;> simp
@[simp] theorem choiceMade_idx : s.choiceMade.idx = s.idx := by
  unfold State.choiceMade; split <;> rfl
@[simp] theorem picked_idx : s.picked.idx = s.idx := by
  unfold State.picked; split <;> simp
@[simp] theorem choiceMade_phase : s.choiceMade.phase = s.phase := by
  unfold State.choiceMade; split <;> rfl
@[simp] theorem picked_phase : s.picked.phase = s.phase := by
  unfold State.picked; split <;> simp
@[simp] theorem choiceMade_saved : s.choiceMade.saved = s.saved := by
  unfold State.choiceMade; split <;> rfl
@[simp] theorem picked_saved : s.picked.saved = s.saved := by
  unfold State.picked; split <;> simp
@[simp] theorem choiceMade_v : s.choiceMade.v = s.v := by
  unfold State.choiceMade; split <;> rfl
@[simp] theorem picked_v : s.picked.v = s.v := by
  unfold State.picked; split <;> simp
@[simp] theorem choiceMade_ret : s.choiceMade.ret = s.ret := by
  unfold State.choiceMade; split <;> rfl
@[simp] theorem picked_ret : s.picked.ret = s.ret := by
  unfold State.picked; split <;> simp
@[simp] theorem choiceMade_cfg : s.choiceMade.cfg = s.cfg := by
  unfold State.choiceMade; split <;> rfl
@[simp] theorem picked_cfg : s.picked.cfg = s.cfg := by
  unfold State.picked; split <;> simp
@[simp] theorem choiceMade_periph : s.choiceMade.periph = s.periph := by
  unfold State.choiceMade; split <;> rfl
@[simp] theorem picked_periph : s.picked.periph = s.periph := by
  unfold State.picked; split <;> simp
@[simp] theorem choiceMade_seen : s.choiceMade.seen = s.seen := by
  unfold State.choiceMade; split <;> rfl
@[simp] theorem picked_seen : s.picked.seen = s.seen := by
  unfold State.picked; split <;> simp
@[simp] theorem choiceMade_tickEnabled : s.choiceMade.tickEnabled = s.tickEnabled := by
  simp [State.tickEnabled]
@[simp] theorem choiceMade_current : s.choiceMade.current = s.current := by
  simp [State.current]
@[simp] theorem picked_tickEnabled : s.picked.tickEnabled = s.tickEnabled := by
  simp [State.tickEnabled]
@[simp] theorem picked_current : s.picked.current = s.current := by
  simp [State.current]

end Sys2Proof.Machine
end

