-- ==== Sys2Proof/Laws/Meanings.lean ====
section
/-!
SUPPORT. For each shared operation and each meaning, one lemma that says once everything it can do
when it answers a next state.
-/

namespace Sys2Proof.Machine

open Sys2Proof

variable {s t : State} {k : Result} {b : Byte}

/-- A main-context phase completes only with no `TICK` enabled (40_tick.md R91). -/
theorem mainStep_next :
    s.mainStep k = .next t ↔ s.tickEnabled = false ∧ k = .next t := by
  unfold State.mainStep
  cases s.tickEnabled <;> simp

theorem singlePhase_next {u : State} :
    s.singlePhase u = .next t ↔ s.tickEnabled = false ∧ s.phase = .zero ∧ t = u := by
  unfold State.singlePhase
  rw [mainStep_next]
  by_cases h : s.phase = .zero
  · rw [if_pos h, Host.Outcome.next.injEq]
    exact ⟨fun ⟨a, b⟩ => ⟨a, h, b.symm⟩, fun ⟨a, _, b⟩ => ⟨a, b.symm⟩⟩
  · rw [if_neg h]
    exact ⟨fun ⟨_, b⟩ => (nomatch b), fun ⟨_, b, _⟩ => absurd b h⟩

/-- `SENDB`: a poll that stays, a poll that goes on, or the load (42_uart_tx.md R125). -/
theorem execSendb_next (h : execSendb b s = .next t) :
    s.tickEnabled = false ∧
      ((s.phase = .p ∧ s.busy = true ∧ t = s) ∨
       (s.phase = .p ∧ s.busy = false ∧ t = s.goto .l) ∨
       (s.phase = .l ∧ s.busy = false ∧ t = (s.loadTx b).complete)) := by
  obtain ⟨he, h⟩ := mainStep_next.1 h
  refine ⟨he, ?_⟩
  split at h
  · next hp => by_cases hb : s.busy = true <;> simp_all
  · next hp => by_cases hb : s.busy = true <;> simp_all
  · cases h

/-- `XFER`: one of its four phases; the pulse phase stays or goes on (43_bus_transfer.md R157). -/
theorem execXfer_next (h : execXfer b s = .next t) :
    s.tickEnabled = false ∧
      ((s.phase = .x1 ∧ t = { s with sr := b }.goto .x2) ∨
       (s.phase = .x2 ∧ t = { s with done := false, cnt := 0 }.goto .x3) ∨
       (s.phase = .x3 ∧ (pulse s).done = true ∧ t = (pulse s).goto .x4) ∨
       (s.phase = .x3 ∧ (pulse s).done = false ∧ t = pulse s) ∨
       (s.phase = .x4 ∧ t = (s.setRet (.byte s.sr)).complete)) := by
  obtain ⟨he, h⟩ := mainStep_next.1 h
  refine ⟨he, ?_⟩
  split at h
  · next hp => simp_all
  · next hp => simp_all
  · next hp => by_cases hd : (pulse s).done = true <;> simp_all
  · next hp => simp_all
  · cases h

/-- `NOW`: one of its three phases (41_timebase.md R105). -/
theorem execNow_next (h : execNow s = .next t) :
    s.tickEnabled = false ∧
      ((s.phase = .n1 ∧ t = { s with saved := s.ie, ie := false }.goto .n2) ∨
       (s.phase = .n2 ∧ t = { s with v := s.millis }.goto .n3) ∨
       (s.phase = .n3 ∧ t = ((s.setIe s.saved).setRet (.millis s.v)).complete)) := by
  obtain ⟨he, h⟩ := mainStep_next.1 h
  refine ⟨he, ?_⟩
  split at h
  · next hp => simp_all
  · next hp => simp_all
  · next hp => simp_all
  · cases h

theorem execIrqoff_next :
    execIrqoff s = .next t ↔ s.tickEnabled = false ∧ s.phase = .zero ∧
      t = ((s.setRet (.flag s.ie)).setIe false).complete := singlePhase_next

theorem execIrqrst_next {e : Bool} :
    execIrqrst e s = .next t ↔ s.tickEnabled = false ∧ s.phase = .zero ∧
      t = (s.setIe e).complete := singlePhase_next

theorem execCson_next :
    execCson s = .next t ↔ s.tickEnabled = false ∧ s.phase = .zero ∧
      t = (s.driveCs true).complete := singlePhase_next

theorem execCsoff_next :
    execCsoff s = .next t ↔ s.tickEnabled = false ∧ s.phase = .zero ∧
      t = (s.driveCs false).complete := singlePhase_next

theorem execEnon_next :
    execEnon s = .next t ↔ s.tickEnabled = false ∧ s.phase = .zero ∧
      t = (s.driveEn true).complete := singlePhase_next

theorem execEnoff_next :
    execEnoff s = .next t ↔ s.tickEnabled = false ∧ s.phase = .zero ∧
      t = (s.driveEn false).complete := singlePhase_next

theorem execDelay_next :
    execDelay s = .next t ↔ s.tickEnabled = false ∧ s.phase = .zero ∧ t = s.complete :=
  singlePhase_next

/-- `TICK` completes exactly when enabled: entry, body, return (40_tick.md R90, R91). -/
theorem execTick_next :
    execTick s = .next t ↔ s.tickEnabled = true ∧ t = tickBody s.interruptEntry := by
  unfold execTick State.takeInterrupt
  cases s.tickEnabled
  · simp
  · simp only [if_true, Host.Outcome.next.injEq, interruptReturn_eq, true_and]
    exact ⟨Eq.symm, Eq.symm⟩

/-- `EXPIRE` completes exactly when no `TICK` is enabled (40_tick.md R92). -/
theorem execExpire_next :
    execExpire s = .next t ↔ s.tickEnabled = false ∧ t = s.latchExpiry := by
  unfold execExpire
  cases s.tickEnabled
  · simp only [Bool.false_eq_true, if_false, Host.Outcome.next.injEq, true_and]
    exact ⟨Eq.symm, Eq.symm⟩
  · simp

/-- `UartStep`, said once: idle, start bit, data bit or stop bit (42_uart_tx.md R122, R123). -/
theorem uartStep_cases (s : State) :
    (s.busy = false ∧ uartStep s = s) ∨
    (s.busy = true ∧ s.bitIdx = 0 ∧
      uartStep s = { s with txLine := false, bitIdx := s.bitIdx + 1 }) ∨
    (s.busy = true ∧ 1 ≤ s.bitIdx ∧ s.bitIdx < s.cfg.stopIdx ∧
      uartStep s = { s with txLine := s.shift.getLsbD 0, shift := s.shift >>> 1,
                            bitIdx := s.bitIdx + 1 }) ∨
    (s.busy = true ∧ 1 ≤ s.bitIdx ∧ s.cfg.stopIdx ≤ s.bitIdx ∧
      uartStep s = { s with txLine := true, busy := false, bitIdx := s.bitIdx + 1 }) := by
  unfold uartStep dataPosition
  cases hb : s.busy
  · simp
  · by_cases h0 : s.bitIdx = 0
    · simp [h0]
    · have h1 : 1 ≤ s.bitIdx := by omega
      by_cases h9 : s.bitIdx < s.cfg.stopIdx
      · simp [h0, h1, h9]
      · simp [h0, h1, h9, Nat.le_of_not_lt h9]

/-- `UartStep` touches the transmitter only (46_control_and_access.md R214). -/
theorem uartStep_frame (s : State) :
    uartStep s = { s with txLine := (uartStep s).txLine, shift := (uartStep s).shift,
                          busy := (uartStep s).busy, bitIdx := (uartStep s).bitIdx } := by
  rcases uartStep_cases s with ⟨-, h⟩ | ⟨-, -, h⟩ | ⟨-, -, -, h⟩ | ⟨-, -, -, h⟩ <;> rw [h]

/-- `TimeBaseStep` touches the Time Base only (R214). -/
theorem timeBaseStep_frame (s : State) :
    timeBaseStep s = { s with millis := (timeBaseStep s).millis, acc := (timeBaseStep s).acc } :=
  rfl

/-- The handler touches the transmitter and the Time Base only, and its two halves do not see each
other (R51, R214). -/
theorem tickBody_frame (s : State) :
    tickBody s = { s with txLine := (uartStep s).txLine, shift := (uartStep s).shift,
                          busy := (uartStep s).busy, bitIdx := (uartStep s).bitIdx,
                          millis := (timeBaseStep s).millis, acc := (timeBaseStep s).acc } := by
  rcases uartStep_cases s with ⟨-, h⟩ | ⟨-, -, h⟩ | ⟨-, -, -, h⟩ | ⟨-, -, -, h⟩ <;>
    rw [tickBody, h] <;> rfl

/-- The pulse touches the bus peripheral and the attached device only (43_bus_transfer.md R152). -/
theorem pulse_frame (s : State) :
    pulse s = { s with sr := (pulse s).sr, cnt := (pulse s).cnt, done := (pulse s).done,
                       periph := (pulse s).periph, seen := (pulse s).seen } := by
  unfold pulse pulseWith countPulse
  dsimp only
  split <;> rfl

/-- `CountPulse`, said once (43_bus_transfer.md R153, R159). -/
theorem countPulse_cases (s : State) :
    (s.cnt + 1 = s.cfg.busW ∧
      countPulse s = { s with cnt := 0, done := doneAfterLastPulse s.cfg.busFaulty s.done }) ∨
    (s.cnt + 1 ≠ s.cfg.busW ∧ countPulse s = { s with cnt := s.cnt + 1 }) := by
  have hl : lastPulse s.cfg.busW s.cnt = true ↔ s.cnt + 1 = s.cfg.busW := by simp [lastPulse]
  by_cases h : s.cnt + 1 = s.cfg.busW
  · left; exact ⟨h, by rw [countPulse, if_pos (hl.2 h)]⟩
  · right; exact ⟨h, by rw [countPulse, if_neg (mt hl.1 h)]⟩

/-- A pulse, field by field (43_bus_transfer.md R152, R153). -/
theorem pulse_eq (s : State) :
    pulse s = { s with
      sr := shiftIn s.cfg.busMsbFirst s.sr (s.answer (dataOut s.cfg.busMsbFirst s.sr))
      cnt := if s.cnt + 1 = s.cfg.busW then 0 else s.cnt + 1
      done := if s.cnt + 1 = s.cfg.busW then doneAfterLastPulse s.cfg.busFaulty s.done else s.done
      periph := s.periphAfterPulse (dataOut s.cfg.busMsbFirst s.sr)
      seen := .sentBit (dataOut s.cfg.busMsbFirst s.sr) :: s.seen } := by
  rcases countPulse_cases { s.periphPulse (dataOut s.cfg.busMsbFirst s.sr) with
      sr := shiftIn s.cfg.busMsbFirst s.sr (s.answer (dataOut s.cfg.busMsbFirst s.sr)) }
    with ⟨hc, he⟩ | ⟨hc, he⟩
  · have hc' : s.cnt + 1 = s.cfg.busW := hc
    rw [if_pos hc', if_pos hc']
    exact he
  · have hc' : s.cnt + 1 ≠ s.cfg.busW := hc
    rw [if_neg hc', if_neg hc']
    exact he

/-- What a pulse counts (43_bus_transfer.md R152, R153). -/
theorem pulse_counts (s : State) :
    (s.cnt + 1 = s.cfg.busW ∧ (pulse s).cnt = 0 ∧ (pulse s).done = doneAfterLastPulse s.cfg.busFaulty s.done) ∨
    (s.cnt + 1 ≠ s.cfg.busW ∧ (pulse s).cnt = s.cnt + 1 ∧ (pulse s).done = s.done) := by
  have hp : pulse s = countPulse { s.periphPulse (dataOut s.cfg.busMsbFirst s.sr) with
      sr := shiftIn s.cfg.busMsbFirst s.sr (s.answer (dataOut s.cfg.busMsbFirst s.sr)) } := rfl
  rcases countPulse_cases { s.periphPulse (dataOut s.cfg.busMsbFirst s.sr) with
      sr := shiftIn s.cfg.busMsbFirst s.sr (s.answer (dataOut s.cfg.busMsbFirst s.sr)) }
    with ⟨hc, he⟩ | ⟨hc, he⟩
  · left; rw [hp, he]; exact ⟨hc, rfl, rfl⟩
  · right; rw [hp, he]; exact ⟨hc, rfl, rfl⟩

end Sys2Proof.Machine
end

