-- ==== Sys2Proof/Laws/PerInstr.lean ====
section
/-!
SUPPORT. Statements about every instruction as syntax, one lemma per constructor (LAWS.json,
"per_instruction"): the encoded word of an operation is accepted by the opcode map's row of its
mnemonic, and by no other row (spec 30_encoding.md R67).
-/

namespace Sys2Proof.Laws

open Sys2Proof Sys2Proof.Machine

/-- The rows of the opcode map that accept an operation's word are those of its mnemonic. -/
def RowOfEncoding.Statement (i : Instr) : Prop :=
  ∀ r ∈ opcodeMap, r.accepts (encode i) = (r.mnemonic == i.mnemonic)

theorem RowOfEncoding.sendb (b : Byte) : RowOfEncoding.Statement (.sendb b) := by
  revert b; unfold Statement; decide

theorem RowOfEncoding.xfer (b : Byte) : RowOfEncoding.Statement (.xfer b) := by
  revert b; unfold Statement; decide

theorem RowOfEncoding.now : RowOfEncoding.Statement .now := by
  unfold Statement; decide

theorem RowOfEncoding.irqoff : RowOfEncoding.Statement .irqoff := by
  unfold Statement; decide

theorem RowOfEncoding.irqrst (s : Bool) : RowOfEncoding.Statement (.irqrst s) := by
  revert s; unfold Statement; decide

theorem RowOfEncoding.cson : RowOfEncoding.Statement .cson := by
  unfold Statement; decide

theorem RowOfEncoding.csoff : RowOfEncoding.Statement .csoff := by
  unfold Statement; decide

theorem RowOfEncoding.enon : RowOfEncoding.Statement .enon := by
  unfold Statement; decide

theorem RowOfEncoding.enoff : RowOfEncoding.Statement .enoff := by
  unfold Statement; decide

theorem RowOfEncoding.delay : RowOfEncoding.Statement .delay := by
  unfold Statement; decide

theorem RowOfEncoding.tick : RowOfEncoding.Statement .tick := by
  unfold Statement; decide

theorem RowOfEncoding.expire : RowOfEncoding.Statement .expire := by
  unfold Statement; decide

end Sys2Proof.Laws
end

