-- ==== Sys2Proof/Laws/Step.lean ====
section
/-!
SUPPORT. What one step can do, said once (spec 20_memory.md R50, 40_tick.md R91, R92).
-/

namespace Sys2Proof.Machine

open Sys2Proof

variable {s t : State} {i : Instr}

/-- The step that runs an operation is `exec` of it after the choice. -/
theorem step_of_pick (h : s.pick = .run i) : step s = exec i s.picked := by
  unfold step; rw [h]

/-- What the picked operation is. -/
theorem pick_run (h : s.pick = .run i) :
    programRefusal s.prog = none ∧
      ((s.tickEnabled = true ∧ i = .tick) ∨
       (s.tickEnabled = false ∧ i = .expire) ∨
       (s.tickEnabled = false ∧ s.current = some i)) := by
  unfold State.pick at h
  split at h
  · cases h
  · next hp =>
    refine ⟨hp, ?_⟩
    cases ht : s.tickEnabled
    · simp only [ht, Bool.false_eq_true, if_false] at h
      split at h
      · cases h; simp
      · next j hj =>
        split at h
        · cases h; simp
        · cases h; simp [hj]
    · simp only [ht, if_true] at h
      cases h; simp

/-- A step that answers a next state ran one operation. -/
theorem step_next (h : step s = .next t) : ∃ i, s.pick = .run i ∧ exec i s.picked = .next t := by
  unfold step at h
  split at h
  · cases h
  · next i hi => exact ⟨i, hi, h⟩

/-- The host's run unfolds one step at a time, for any machine. -/
theorem coreRun_next {M : Host.Core} {n : Nat} {a b : M.State} (h : M.step a = .next b) :
    M.run (n + 1) a = M.run n b := by
  simp only [Host.Core.run, h]

theorem coreRun_fault {M : Host.Core} {n : Nat} {a : M.State} {r : M.Fault}
    (h : M.step a = .fault r) : M.run (n + 1) a = .fault r := by
  simp only [Host.Core.run, h]

theorem coreRun_refused {M : Host.Core} {n : Nat} {a : M.State} {r : M.Refusal}
    (h : M.step a = .refused r) : M.run (n + 1) a = .refused r := by
  simp only [Host.Core.run, h]

/-- `run` is the host's run of this machine. -/
theorem run_eq_core_run (n : Nat) (s : State) : run n s = Sys2Proof.core.run n s := by
  induction n generalizing s with
  | zero => rfl
  | succ n ih =>
    cases hs : step s with
    | next t =>
      refine Eq.trans ?_ (coreRun_next (M := Sys2Proof.core) (a := s) hs).symm
      simp only [run, hs]
      exact ih t
    | fault r =>
      refine Eq.trans ?_ (coreRun_fault (M := Sys2Proof.core) (a := s) hs).symm
      simp only [run, hs]
      rfl
    | refused r =>
      refine Eq.trans ?_ (coreRun_refused (M := Sys2Proof.core) (a := s) hs).symm
      simp only [run, hs]
      rfl

/-- A run of one more step is a step and a run. -/
theorem run_succ_next {n : Nat} {u : State} :
    run (n + 1) s = .next u ↔ ∃ t, step s = .next t ∧ run n t = .next u := by
  rw [run]
  cases step s <;> simp

/-- A run splits at any of its points. -/
theorem run_add {m n : Nat} {t : State} (h : run m s = .next t) : run (m + n) s = run n t := by
  induction m generalizing s with
  | zero =>
    cases h
    rw [Nat.zero_add]
  | succ m ih =>
    obtain ⟨u, h1, h2⟩ := run_succ_next.1 h
    rw [Nat.succ_add, run, h1]
    exact ih h2

/-- A run that goes on for `m + n` steps goes on for `m`. -/
theorem run_take {m n : Nat} {t : State} (h : run (m + n) s = .next t) :
    ∃ u, run m s = .next u ∧ run n u = .next t := by
  induction m generalizing s with
  | zero =>
    rw [Nat.zero_add] at h
    exact ⟨s, rfl, h⟩
  | succ m ih =>
    rw [Nat.succ_add] at h
    obtain ⟨u, h1, h2⟩ := run_succ_next.1 h
    obtain ⟨w, h3, h4⟩ := ih h2
    exact ⟨w, run_succ_next.2 ⟨u, h1, h3⟩, h4⟩

/-- `nextOp` names the picked operation. -/
theorem nextOp_of_pick (h : s.pick = .run i) : s.nextOp = some i := by
  unfold State.nextOp; rw [h]

/-- A step that answers a next state has a next operation. -/
theorem nextOp_of_step (h : step s = .next t) : ∃ i, s.nextOp = some i ∧ exec i s.picked = .next t := by
  obtain ⟨i, hi, he⟩ := step_next h
  exact ⟨i, nextOp_of_pick hi, he⟩

theorem runOps_succ {n : Nat} (hi : s.nextOp = some i) (h : step s = .next t) :
    runOps (n + 1) s = i :: runOps n t := by
  rw [runOps, hi, h]

/-- The operations of a run are those of its parts. -/
theorem runOps_add {m n : Nat} {t : State} (h : run m s = .next t) :
    runOps (m + n) s = runOps m s ++ runOps n t := by
  induction m generalizing s with
  | zero =>
    cases h
    rw [Nat.zero_add]
    rfl
  | succ m ih =>
    obtain ⟨u, h1, h2⟩ := run_succ_next.1 h
    obtain ⟨i, hi, -⟩ := nextOp_of_step h1
    rw [Nat.succ_add, runOps_succ hi h1, runOps_succ hi h1, ih h2]
    rfl

/-- Fairness is a property of what is still to come: a state that a run reaches is fair if the start
is. -/
theorem timerFair_run {n : Nat} {t : State} (h : run n s = .next t) (hf : s.TimerFair) :
    t.TimerFair :=
  fun k u hu => hf (n + k) u ((run_add h).trans hu)

/-- A start is fair if some state its run reaches is. -/
theorem timerFair_of_run {n : Nat} {t : State} (h : run n s = .next t) (hf : t.TimerFair) :
    s.TimerFair := by
  intro k w hw
  rcases Nat.le_total n k with hle | hle
  · obtain ⟨j, rfl⟩ := Nat.exists_eq_add_of_le hle
    exact hf j w ((run_add h).symm.trans hw)
  · obtain ⟨j, rfl⟩ := Nat.exists_eq_add_of_le hle
    have hj : run j w = .next t := (run_add hw).symm.trans h
    obtain ⟨m, u, h1, h2⟩ := hf 0 t rfl
    refine ⟨j + m, u, (run_add hj).trans h1, ?_⟩
    rw [runOps_add hj]
    exact List.mem_append_right _ h2

/-- Once the main context has finished, the next step is `TICK` if it is enabled and `EXPIRE`
otherwise, and the main context stays finished (10_state.md R31, 40_tick.md R91, R92; log 5). -/
theorem finished_step (hp : programAccepted s.prog = true) (hd : s.prog.length ≤ s.idx) :
    ∃ t, step s = .next t ∧ t.prog = s.prog ∧ t.idx = s.idx ∧ t.phase = s.phase ∧
      ((s.nextOp = some .tick ∧ t.pend = false) ∨ s.nextOp = some .expire) := by
  have hr : programRefusal s.prog = none := by simpa [programAccepted] using hp
  have hc : s.current = none := by simp [State.current, commandAt, hd]
  cases ht : s.tickEnabled
  · have hk : s.pick = .run .expire := by simp [State.pick, hr, ht, hc]
    exact ⟨_, (step_of_pick hk).trans (execExpire_next.2 ⟨by simpa using ht, rfl⟩),
      by simp, by simp, by simp, .inr (nextOp_of_pick hk)⟩
  · have hk : s.pick = .run .tick := by simp [State.pick, hr, ht]
    exact ⟨_, (step_of_pick hk).trans (execTick_next.2 ⟨by simpa using ht, rfl⟩),
      by rw [tickBody_frame]; simp, by rw [tickBody_frame]; simp, by rw [tickBody_frame]; simp,
      .inl ⟨nextOp_of_pick hk, by rw [tickBody_frame]; simp⟩⟩

/-- A run of a finished main context leaves it finished where it stands. -/
theorem finished_run {n : Nat} (hp : programAccepted s.prog = true) (hd : s.prog.length ≤ s.idx)
    (h : run n s = .next t) : t.prog = s.prog ∧ t.idx = s.idx ∧ t.phase = s.phase := by
  induction n generalizing s with
  | zero =>
    cases h
    exact ⟨rfl, rfl, rfl⟩
  | succ n ih =>
    obtain ⟨u, hu, hut⟩ := run_succ_next.1 h
    obtain ⟨w, hw, e1, e2, e3, -⟩ := finished_step hp hd
    obtain rfl : w = u := by
      rw [hw] at hu
      cases hu
      rfl
    obtain ⟨g1, g2, g3⟩ := ih (by rw [e1]; exact hp) (by rw [e1, e2]; exact hd) hut
    exact ⟨g1.trans e1, g2.trans e2, g3.trans e3⟩

/-- Where only the timer has a step left, the timer is fair. -/
theorem timerFair_of_finished (hp : programAccepted s.prog = true) (hd : s.prog.length ≤ s.idx) :
    s.TimerFair := by
  intro n t ht
  obtain ⟨q1, q2, -⟩ := finished_run hp hd ht
  have h1 : programAccepted t.prog = true := by rw [q1]; exact hp
  have h2 : t.prog.length ≤ t.idx := by rw [q1, q2]; exact hd
  obtain ⟨u, hu, e1, e2, -, ⟨ho, hq⟩ | ho⟩ := finished_step h1 h2
  · obtain ⟨w, hw, -, -, -, ⟨hc, -⟩ | ho'⟩ :=
      finished_step (s := u) (by rw [e1]; exact h1) (by rw [e1, e2]; exact h2)
    · obtain ⟨i, hi, he⟩ := nextOp_of_step hw
      rw [hc] at hi
      cases hi
      have := (execTick_next.1 he).1
      simp [State.tickEnabled, hq] at this
    · exact ⟨2, w, run_succ_next.2 ⟨u, hu, run_succ_next.2 ⟨w, hw, rfl⟩⟩, by
        rw [runOps_succ ho hu, runOps_succ ho' hw]; simp⟩
  · exact ⟨1, u, run_succ_next.2 ⟨u, hu, rfl⟩, by rw [runOps_succ ho hu]; simp⟩

/-- With interrupts enabled an `EXPIRE` finds no earlier expiry pending, so it loses none: where only
the timer has a step left, `LOST` stays 0 on the whole run (40_tick.md R91, R93;
70_reset_and_hazards.md R267). -/
theorem noLossOnRun_of_finished (hp : programAccepted s.prog = true) (hd : s.prog.length ≤ s.idx)
    (hi : s.ie = true) (hl : s.lost = 0) : s.NoLossOnRun := by
  intro n t ht
  induction n generalizing s with
  | zero =>
    cases ht
    exact hl
  | succ n ih =>
    obtain ⟨u, hu, hut⟩ := run_succ_next.1 ht
    have hr : programRefusal s.prog = none := by simpa [programAccepted] using hp
    have hc : s.current = none := by simp [State.current, commandAt, hd]
    cases hk : s.tickEnabled
    · have hpend : s.pend = false := by simpa [State.tickEnabled, hi] using hk
      rw [step_of_pick (i := .expire) (by simp [State.pick, hr, hk, hc])] at hu
      obtain ⟨-, rfl⟩ := execExpire_next.1 hu
      exact ih (by simpa using hp) (by simpa using hd) (by simpa using hi)
        (by simp [lostAfterExpire, hpend, hl]) hut
    · rw [step_of_pick (i := .tick) (by simp [State.pick, hr, hk])] at hu
      obtain ⟨-, rfl⟩ := execTick_next.1 hu
      rw [tickBody_frame] at hut
      exact ih (by simpa using hp) (by simpa using hd) (by simpa using hi) (by simpa using hl) hut

/-- In an accepted program every command in range is a host command. -/
theorem commandAt_hostWellFormed {p : List CmdWord} {n : Nat}
    (hp : programRefusal p = none) (h : commandAt p n = some i) : i.hostWellFormed = true := by
  unfold programRefusal at hp
  rw [List.findSome?_eq_none_iff] at hp
  unfold commandAt at h
  obtain ⟨w, hw, hd⟩ := Option.bind_eq_some_iff.1 h
  have hr := hp w (List.mem_of_getElem? hw)
  unfold wordRefusal at hr
  unfold decode? at hd
  split at hd
  · next j hj =>
    cases hd
    rw [hj] at hr
    by_contra hc
    simp [hc] at hr
  · cases hd

/-- In an accepted program every position in range holds a command. -/
theorem commandAt_isSome {p : List CmdWord} {n : Nat}
    (hp : programRefusal p = none) (h : n < p.length) : (commandAt p n).isSome = true := by
  unfold programRefusal at hp
  rw [List.findSome?_eq_none_iff] at hp
  have hr := hp p[n] (List.getElem_mem h)
  unfold wordRefusal at hr
  unfold commandAt decode?
  rw [List.getElem?_eq_getElem h, Option.bind_some]
  split at hr
  · cases hr
  · next j hj => simp [hj]

/-- The phase of arrival is one of the command's own (10_state.md R31). -/
theorem firstPhase_mem {i : Instr} (h : i.hostWellFormed = true) : firstPhase i ∈ phasesOf i := by
  cases i <;> simp_all [firstPhase, phasesOf, Instr.hostWellFormed, Instr.isEvent, Instr.format]

/-- No command is first met in a phase past its first. -/
theorem arrivalPhase_first (p : List CmdWord) (n : Nat) :
    arrivalPhase p n ∈ [Phase.p, Phase.x1, Phase.n1, Phase.zero, Phase.none] := by
  unfold arrivalPhase
  split
  · next op _ => cases op <;> simp [firstPhase]
  · simp

end Sys2Proof.Machine
end

