-- ==== Sys2Proof/Laws/Sequencer.lean ====
section
/-!
SUPPORT. The small lemmas of the Sequencer's scripts, its poll and its sessions, and of the moments of
the register-model double (spec 45_sequencer_environment.md R200, R201, R203).
-/

namespace Sys2Proof.Machine

open Sys2Proof

theorem commandsOf_append (a b : List ScriptStep) :
    commandsOf (a ++ b) = commandsOf a ++ commandsOf b := List.map_append

theorem assemble_append (a b : List Instr) : assemble (a ++ b) = assemble a ++ assemble b :=
  List.map_append

theorem pollDone_iff (mask status : Byte) : pollDone mask status = true ↔ status &&& mask ≠ 0 :=
  bne_iff_ne

/-- After its end the poll issues nothing more (R201). -/
@[simp] theorem pollRun_finished (c : Config.Params) (t : Config.CmdTable) (l : List Byte) :
    pollRun c t .finished l = [] := by
  induction l with
  | nil => rfl
  | cons a l ih => simp [pollRun, pollTurn, ih]

/-- An issued command is the one the main context stands at. -/
theorem issue_current {s : State} (i : Instr) (h : s.idx = s.prog.length)
    (hd : decode? (encode i) = some i) : (s.issue i).current = some i := by
  simp [State.issue, State.current, commandAt, h, hd]

/-- A session's step is the Sequencer's move and one step of the machine. -/
theorem sessionStep_next {q r : Session} (h : q.step = .next r) :
    ∃ t, step q.advance.machine = .next t ∧ r = { q.advance with machine := t } := by
  unfold Session.step at h
  split at h
  · next t ht =>
    cases h
    exact ⟨t, ht, rfl⟩
  · cases h
  · cases h

/-- While a step of the script is in progress the Sequencer waits. -/
theorem advance_unfinished {q : Session} (h : q.machine.finished = false) : q.advance = q := by
  simp [Session.advance, h]

/-- A moment of choice changes nothing of the double but its status, and whether a completion is
still to come (R203, item 5). -/
theorem choose_frame (m : RegModel) (mask : Byte) :
    m.choose mask = { m with status := (m.choose mask).status, armed := (m.choose mask).armed,
                             plan := (m.choose mask).plan } := by
  unfold RegModel.choose
  split
  · split <;> rfl
  · rfl

/-- With no completion to come a moment of choice changes nothing. -/
theorem choose_idle {m : RegModel} (mask : Byte) (h : m.armed = false) : m.choose mask = m := by
  unfold RegModel.choose
  rw [h]

/-- The status only gains bits of the mask, and a gain ends the wait (R203, item 5). -/
theorem choose_gain (m : RegModel) (mask : Byte) :
    m.choose mask = m ∨
    (m.armed = true ∧ ∃ b rest, m.plan = b :: rest ∧
      ((b &&& mask = 0 ∧ m.choose mask = { m with plan := rest }) ∨
       (b &&& mask ≠ 0 ∧
        m.choose mask = { m with status := m.status ||| (b &&& mask), armed := false,
                                 plan := rest }))) := by
  unfold RegModel.choose
  split
  · next b rest ha hp =>
    right
    by_cases hb : b &&& mask = 0
    · exact ⟨ha, b, rest, hp, .inl ⟨hb, if_pos hb⟩⟩
    · exact ⟨ha, b, rest, hp, .inr ⟨hb, if_neg hb⟩⟩
  · exact .inl rfl

end Sys2Proof.Machine
end

