-- ==== Sys2Proof/Laws/TimeBase.lean ====
section
/-!
SUPPORT. The Time Base's carry loop and per-tick update, said once (spec 41_timebase.md R101,
R102).
-/

namespace Sys2Proof.Machine

open Sys2Proof

theorem carryTest_iff (strict : Bool) (ms : Nat) (a : AccWord) :
    carryTest strict ms a = true ↔ ms + strict.toNat ≤ a.toNat := by
  cases strict <;> simp [carryTest]

/-- An iteration takes `MS_UNITS` from the accumulator without wrapping (R102, R107). -/
theorem sub_msUnits_toNat {ms : Nat} {a : AccWord} (h : ms ≤ a.toNat) :
    (a - BitVec.ofNat 16 ms).toNat = a.toNat - ms := by
  have := a.isLt
  bv_omega

/-- The loop keeps the total of milliseconds and accumulator units: it moves `k` whole
milliseconds from the accumulator to the counter. -/
theorem carryLoop_moves (strict : Bool) (ms fuel : Nat) (m : MillisWord) (a : AccWord) :
    ∃ k ≤ fuel, (carryLoop strict ms fuel m a).1 = m + BitVec.ofNat 64 k ∧
      (carryLoop strict ms fuel m a).2.toNat + ms * k = a.toNat := by
  induction fuel generalizing m a with
  | zero => exact ⟨0, Nat.le_refl 0, by simp [carryLoop], by simp [carryLoop]⟩
  | succ n ih =>
    by_cases h : carryTest strict ms a = true
    · have hle : ms ≤ a.toNat := by
        have := (carryTest_iff strict ms a).1 h
        omega
      obtain ⟨k, hk, hm, ha⟩ := ih (m + 1) (a - BitVec.ofNat 16 ms)
      rw [sub_msUnits_toNat hle] at ha
      refine ⟨k + 1, by omega, ?_, ?_⟩
      · rw [carryLoop, if_pos h, hm]
        rw [BitVec.ofNat_add, BitVec.add_assoc, BitVec.add_comm 1]
        rfl
      · rw [carryLoop, if_pos h, Nat.mul_add]
        omega
    · exact ⟨0, by omega, by simp [carryLoop, h], by simp [carryLoop, h]⟩

/-- The fuel never cuts the loop short: for every `MS_UNITS` but 0 it ends with the carry test
false (R101). -/
theorem carryLoop_ends {ms : Nat} (hms : 0 < ms) (strict : Bool) (m : MillisWord) (a : AccWord) :
    carryTest strict ms (carryLoop strict ms (carryFuel a) m a).2 = false := by
  suffices H : ∀ (fuel : Nat) (m : MillisWord) (a : AccWord), a.toNat < fuel →
      carryTest strict ms (carryLoop strict ms fuel m a).2 = false from
    H _ m a (Nat.lt_succ_self _)
  intro fuel
  induction fuel with
  | zero => intro m a h; omega
  | succ n ih =>
    intro m a h
    by_cases ht : carryTest strict ms a = true
    · have hle : ms ≤ a.toNat := by
        have := (carryTest_iff strict ms a).1 ht
        omega
      rw [carryLoop, if_pos ht]
      refine ih _ _ ?_
      rw [sub_msUnits_toNat hle]
      omega
    · simp [carryLoop, ht]

/-- The addition of `T0` does not wrap from a bounded accumulator (R102). -/
theorem add_t0_toNat {s : State} (hc : s.cfg.TimeCoherent) (h : s.AccBounded) :
    (s.acc + BitVec.ofNat 16 s.cfg.t0).toNat = s.acc.toNat + s.cfg.t0 := by
  have hb : s.cfg.tbCarryStrict.toNat ≤ 1 := Bool.toNat_le _
  obtain ⟨-, hle, hlt⟩ := hc
  simp only [State.AccBounded, Config.ACC_W] at *
  bv_omega

/-- One tick from a bounded accumulator: at most one carry (R101, R102). -/
theorem timeBaseStep_bounded {s : State} (hc : s.cfg.TimeCoherent) (h : s.AccBounded) :
    timeBaseStep s =
      if carryTest s.cfg.tbCarryStrict s.cfg.msUnits (s.acc + BitVec.ofNat 16 s.cfg.t0) then
        { s with millis := s.millis + 1,
                 acc := s.acc + BitVec.ofNat 16 s.cfg.t0 - BitVec.ofNat 16 s.cfg.msUnits }
      else { s with acc := s.acc + BitVec.ofNat 16 s.cfg.t0 } := by
  have hT := add_t0_toNat hc h
  have hb : s.cfg.tbCarryStrict.toNat ≤ 1 := Bool.toNat_le _
  obtain ⟨h0, hle, hlt⟩ := hc
  by_cases ht : carryTest s.cfg.tbCarryStrict s.cfg.msUnits
      (s.acc + BitVec.ofNat 16 s.cfg.t0) = true
  · have hms := (carryTest_iff _ _ _).1 ht
    have hn : ¬ carryTest s.cfg.tbCarryStrict s.cfg.msUnits
        (s.acc + BitVec.ofNat 16 s.cfg.t0 - BitVec.ofNat 16 s.cfg.msUnits) = true := by
      rw [carryTest_iff, sub_msUnits_toNat (by omega), hT]
      simp only [State.AccBounded] at h
      omega
    obtain ⟨f, hf⟩ : ∃ f, carryFuel (s.acc + BitVec.ofNat 16 s.cfg.t0) = f + 2 :=
      ⟨_, by rw [carryFuel, hT]; exact (Nat.sub_add_cancel (by omega :
        2 ≤ s.acc.toNat + s.cfg.t0 + 1)).symm⟩
    simp only [timeBaseStep, hf, carryLoop, if_pos ht, hn, if_false, Bool.false_eq_true]
  · simp only [timeBaseStep, carryFuel, carryLoop, if_neg ht]

/-- The tick keeps the accumulator bounded (R14, R102). -/
theorem timeBaseStep_accBounded {s : State} (hms : 0 < s.cfg.msUnits) :
    (timeBaseStep s).AccBounded := by
  have h := carryLoop_ends hms s.cfg.tbCarryStrict s.millis (s.acc + BitVec.ofNat 16 s.cfg.t0)
  have h' := mt (carryTest_iff _ _ _).2 (by rw [h]; exact Bool.false_ne_true)
  simpa [State.AccBounded, timeBaseStep] using h'

end Sys2Proof.Machine
end

