-- ==== Sys2Proof/Tests/Slice0.lean ====
section
/-!
SUPPORT. Tests of the model, with expected values from spec/95_test_vectors.md or worked by hand
from the rules, and for every statement with hypotheses a witness that meets them. The tests choose
with `sched`, and answer with listed bits, so that no free value is needed.
-/

namespace Sys2Proof.Tests

open Sys2Proof Sys2Proof.Machine

/-- The state after start-up with a program loaded and the first command at phase `ph`. -/
def standing (cmds : List Instr) (ph : Phase) : State :=
  { State.reset.load (assemble cmds) with phase := ph }

/-- The register-model double of 95_test_vectors.md C5, freshly selected. -/
def double : RegModel :=
  { table := ⟨0x20, 0, 0xE1, 0, 0xFF, 0, 5, 7, 0, 0, 0x20, 0x10, 0⟩, status := 0x3E,
    txEmpty := false, partialByte := 0, bitCount := 0, byteCount := 0, firstByte := 0, reply := 0,
    armed := false, plan := [] }

/-- What a step leaves, if it answers a next state. -/
def after (r : Result) : Option State :=
  match r with
  | .next t => some t
  | .fault _ => none
  | .refused _ => none

/-! ## Parameters -/

theorem test_params_coherent :
    Config.Params.normative.WidthsCoherent ∧ Config.Params.normative.TimeCoherent := by decide

/-- The two status flags of 45_sequencer_environment.md R192, R193: one bit each, together `0x30`. -/
theorem test_status_flags :
    double.table.FlagsCoherent Config.Params.normative.pollMask := by decide

/-- The widths of R6 and of the types. -/
theorem test_widths : (BitVec.allOnes Config.MILLIS_W).toNat + 1 = 2 ^ 64 ∧
    (0 : MillisWord).toNat = (0 : BitVec Config.MILLIS_W).toNat ∧
    (0 : AccWord).toNat = (0 : BitVec Config.ACC_W).toNat := by decide

/-! ## Well-formedness smoke tests -/

theorem test_wf_sendb : (Instr.sendb 0xFF).hostWellFormed = true := by decide
theorem test_wf_tick_refused : Instr.tick.hostWellFormed = false := by decide
theorem test_wf_expire_refused : Instr.expire.hostWellFormed = false := by decide
theorem test_wf_program : hostProgramWellFormed [.now, .irqrst true] = true := by decide
theorem test_wf_program_tick_refused : hostProgramWellFormed [.now, .tick] = false := by decide
theorem test_wf_program_expire_refused : hostProgramWellFormed [.expire] = false := by decide
theorem test_accepted : programAccepted [0x0141, 0x0300] = true := by decide
theorem test_invalid_word_refused :
    step (State.reset.load [0x0141, 0x0301]) = .refused .invalidWord := rfl
theorem test_event_word_refused :
    step (State.reset.load [0x0300, 0x8000]) = .refused .eventInProgram := rfl

/-! ## Decoding: words written out from 30_encoding.md R65, R67, bits 15..8 and 7..0 -/

theorem test_decode_sendb : decode 0b00000001_01000001 = .ok (.sendb 0x41) := by decide
theorem test_decode_sendb_zero : decode 0b00000001_00000000 = .ok (.sendb 0x00) := by decide
theorem test_decode_xfer : decode 0b00000010_10100101 = .ok (.xfer 0xA5) := by decide
theorem test_decode_xfer_ones : decode 0b00000010_11111111 = .ok (.xfer 0xFF) := by decide
theorem test_decode_now : decode 0b00000011_00000000 = .ok .now := by decide
theorem test_decode_irqoff : decode 0b00000100_00000000 = .ok .irqoff := by decide
theorem test_decode_irqrst0 : decode 0b00000101_00000000 = .ok (.irqrst false) := by decide
theorem test_decode_irqrst1 : decode 0b00000101_00000001 = .ok (.irqrst true) := by decide
theorem test_decode_cson : decode 0b00010000_00000000 = .ok .cson := by decide
theorem test_decode_csoff : decode 0b00010001_00000000 = .ok .csoff := by decide
theorem test_decode_enon : decode 0b00010010_00000000 = .ok .enon := by decide
theorem test_decode_enoff : decode 0b00010011_00000000 = .ok .enoff := by decide
theorem test_decode_delay : decode 0b00010100_00000000 = .ok .delay := by decide
theorem test_decode_tick : decode 0b10000000_00000000 = .ok .tick := by decide
theorem test_decode_expire : decode 0b10000001_00000000 = .ok .expire := by decide
theorem test_decode_bare_operand : decode 0x1080 = .error .operandNotZero := by decide
theorem test_decode_event_operand : decode 0x8001 = .error .operandNotZero := by decide
theorem test_decode_flag_operand : decode 0x0580 = .error .flagBitsNotZero := by decide
theorem test_decode_unknown : [0x0000, 0x0600, 0x0F00, 0x1500, 0x7F00, 0x8200, 0xFFFF].map decode? =
    List.replicate 7 none := by decide
theorem test_encode_words : assemble [.sendb 0x4F, .xfer 0x27, .now, .irqrst true, .expire] =
    [0x014F, 0x0227, 0x0300, 0x0501, 0x8100] := by decide
theorem test_table_word : decodeTableWord 16 0x02A5 = some (.xfer 0xA5) := by decide

/-! ## One step of each operation (95_test_vectors.md B1 to B4, C1 to C4) -/

theorem test_sendb_poll : exec (.sendb 0xA5) (standing [.sendb 0xA5] .p) =
    .next (standing [.sendb 0xA5] .l) := rfl
theorem test_sendb_load : (after (exec (.sendb 0xA5)
    { standing [.sendb 0xA5, .now] .l with bitIdx := 10 })).map
      (fun t => (t.busy, t.bitIdx, t.shift, t.idx, t.phase)) = some (true, 0, 0xA5, 1, .n1) := by
  decide

theorem test_xfer_pulse_msb : (after (exec (.xfer 0xA5)
    { standing [.xfer 0xA5] .x3 with sr := 0x29, cnt := 3, periph := .scripted [true] })).map
      (fun t => (t.sr, t.cnt, t.done, t.phase)) = some (0x53, 4, false, .x3) := by decide
theorem test_xfer_last_pulse_lsb : (after (exec (.xfer 0xA5)
    { standing [.xfer 0xA5] .x3 with
        sr := 0x79, cnt := 7, periph := .scripted [false],
        cfg := { Config.Params.normative with busMsbFirst := false } })).map
      (fun t => (t.sr, t.cnt, t.done, t.phase)) = some (0x3C, 0, true, .x4) := by decide

theorem test_now_save : (after (exec .now { standing [.now] .n1 with acc := 927 })).map
    (fun t => (t.saved, t.ie, t.phase)) = some (true, false, .n2) := by decide
theorem test_now_restore_disabled : (after (exec .now
    { standing [.now] .n3 with ie := false, pend := true, saved := false, v := 7 })).map
      (fun t => (t.ie, t.pend, t.ret, t.phase)) = some (false, true, .millis 7, .none) := by decide

theorem test_irqoff : (after (exec .irqoff (standing [.irqoff, .irqrst true] .zero))).map
    (fun t => (t.ret, t.ie, t.idx)) = some (.flag true, false, 1) := by decide
theorem test_irqoff_nested : (after (exec .irqoff
    { standing [.irqoff] .zero with ie := false, pend := true })).map
      (fun t => (t.ret, t.ie, t.pend)) = some (.flag false, false, true) := by decide

theorem test_irqrst_set : (after (exec (.irqrst true)
    { standing [.irqrst true] .zero with ie := false, pend := true })).map
      (fun t => (t.ie, t.tickEnabled)) = some (true, true) := by decide
theorem test_irqrst_clear : (after (exec (.irqrst false)
    { standing [.irqrst false] .zero with ie := false, pend := true })).map
      (fun t => (t.ie, t.tickEnabled)) = some (false, false) := by decide

theorem test_cson : (after (exec .cson (standing [.cson] .zero))).map
    (fun t => (t.cs, t.en, t.seen)) = some (true, false, [.chipSelect true]) := by decide
theorem test_csoff : (after (exec .csoff { standing [.csoff] .zero with cs := true })).map
    (fun t => (t.cs, t.seen)) = some (false, [.chipSelect false]) := by decide
theorem test_enon : (after (exec .enon (standing [.enon] .zero))).map
    (fun t => (t.cs, t.en, t.seen)) = some (false, true, [.enableLine true]) := by decide
theorem test_enoff : (after (exec .enoff { standing [.enoff] .zero with en := true })).map
    (fun t => (t.en, t.seen)) = some (false, [.enableLine false]) := by decide
theorem test_delay : exec .delay (standing [.delay] .zero) =
    .next { standing [.delay] .none with idx := 1 } := rfl

theorem test_tick_start_and_carry : (after (exec .tick
    { State.reset with busy := true, shift := 0x41, acc := 927, pend := true })).map
      (fun t => ((t.pend, t.txLine, t.shift), (t.bitIdx, t.busy), (t.acc, t.millis))) =
    some ((false, false, 0x41), (1, true), (30, 1)) := by decide
theorem test_tick_stop_bit : (after (exec .tick
    { State.reset with busy := true, bitIdx := 9, txLine := false, acc := 897, millis := 5,
                       pend := true,
                       cfg := { Config.Params.normative with tbCarryStrict := true } })).map
      (fun t => (t.busy, t.bitIdx, t.txLine, t.acc, t.millis)) =
    some (false, 10, true, 1000, 5) := by decide

theorem test_expire_latches : (after (exec .expire { State.reset with ie := false })).map
    (fun t => (t.pend, t.lost, t.tickEnabled)) = some (true, 0, false) := by decide
theorem test_expire_lost : (after (exec .expire { State.reset with ie := false, pend := true })).map
    (fun t => (t.pend, t.lost)) = some (true, 1) := by decide

/-! ## Operations of 95_test_vectors.md that are parts of a step -/

theorem test_uart_logical_shift : (uartStep
    { State.reset with busy := true, bitIdx := 3, shift := 0xFF, txLine := false }).shift = 0x7F := by
  decide
theorem test_uart_idle : uartStep { State.reset with bitIdx := 3, shift := 0x5A } =
    { State.reset with bitIdx := 3, shift := 0x5A } := by decide
theorem test_frame_A : frame 0x41 =
    [false, true, false, false, false, false, false, true, false, true] := by decide
theorem test_timebase_wrap : ((timeBaseStep
    { State.reset with acc := 950, millis := 0xFFFFFFFFFFFFFFFF }).millis) = 0 := by decide
theorem test_timebase_exact : ((timeBaseStep { State.reset with acc := 897, millis := 5 }).acc,
    (timeBaseStep { State.reset with acc := 897, millis := 5 }).millis) = (0, 6) := by decide
theorem test_regmodel_clears : ((double.byteDone 0x27).byteDone 0x10).status = 0x2E := by decide

/-- A completion in the middle of the first byte: the bit answered is still that of the status as
the byte began (R203, item 2), and the enable line need not be asserted any more (item 5). -/
theorem test_regmodel_keeps_reply : (after (exec (.xfer 0xFF)
    { standing [.xfer 0xFF] .x3 with
        sr := 0xFF, cnt := 3, cs := true,
        periph := .regModel { double with
          status := 0x0E, reply := 0x0E, bitCount := 3, armed := true, plan := [0x10] } })).map
      (fun t => (t.sr, t.periph)) =
    some (0xFE, .regModel { double with
      status := 0x1E, reply := 0x0E, bitCount := 4, partialByte := 1 }) := by
  decide

/-- `ENON` arms the double (R203, item 5). -/
theorem test_regmodel_armed : ({ State.reset with periph := .regModel double }.driveEn true).periph =
    .regModel { double with armed := true } := by decide

/-- "Not yet", then both bits of `POLL_MASK`, at a later event. -/
theorem test_regmodel_moment :
    let m := { double with status := 0, armed := true, plan := [0x0F, 0xFF] }
    (m.choose 0x30).status = 0 ∧ ((m.choose 0x30).choose 0x30).status = 0x30 ∧
      ((m.choose 0x30).choose 0x30).armed = false := by decide

/-! ## The Sequencer (45_sequencer_environment.md R200, R201) -/

theorem test_bulk_read_keeps : (bulkRead Config.Params.normative double.table 0x0A).map
    (fun x => x.keep) = [false, false, true, true, true, true, true, false] := by decide

/-- The poll with a status that is complete at once: one read, then `ENOFF`. -/
def polling : Session :=
  Session.begin { State.reset with
    periph := .scripted [false, false, true, false, true, true, true, false]
    sched := List.replicate 15 .main } double.table

/-- What a session leaves, if it goes on. -/
def afterSession (r : Host.Outcome Session Fault Refusal) : Option Session :=
  match r with
  | .next q => some q
  | .fault _ => none
  | .refused _ => none

theorem test_session_begins : (afterSession polling.step).map
    (fun q => (q.machine.en, q.poll, q.todo.length)) = some (true, .reading, 3) := by decide

/-- The data responses of a bulk read are kept, the first byte's is not (R200). -/
theorem test_session_keeps_address_byte :
    let q := Session.script { State.reset with ret := .byte 0x5A, sched := [.main] } double.table
      (bulkRead Config.Params.normative double.table 0x0A)
    ({ q with awaiting := true, todo := q.todo.drop 3 }.advance.kept,
      { q with awaiting := true, todo := q.todo.drop 3 }.advance.awaiting,
      { q with todo := q.todo.drop 2 }.advance.kept) = ([0x5A], true, []) := by decide

/-- The status byte the machine has returned is kept and decides the exit. -/
theorem test_session_keeps_status :
    let q := { polling with machine := { polling.machine with ret := .byte 0x2E }
                            awaiting := true, poll := .reading, todo := [] }
    (q.advance.kept, q.advance.poll, q.advance.machine.current) =
      ([0x2E], .finished, some .enoff) := by decide
theorem test_session_goes_on :
    let q := { polling with machine := { polling.machine with ret := .byte 0x0E }
                            awaiting := true, poll := .reading, todo := [] }
    (q.advance.kept, q.advance.poll, q.advance.machine.current) =
      ([0x0E], .reading, some .delay) := by decide

/-! ## Witnesses: for each statement with hypotheses, a state and operands that meet them -/

/-- An idle main context that a `TICK` must interrupt. -/
def ticking : State := { standing [.now] .n1 with pend := true }

/-- A frame of `0x41` just loaded, its poll following, interrupts disabled. -/
def hanging : State :=
  { standing [.sendb 0x41] .p with busy := true, shift := 0x41, ie := false, sched := [.expire] }

/-- Interrupts enabled, a frame just loaded, ten expiries to come. -/
def draining : State :=
  { State.reset with busy := true, shift := 0x41, sched := [] }

/-- A transfer about to start, with answers listed. -/
def transferring : State :=
  { standing [.xfer 0xA5] .x1 with
      done := true, cnt := 5,
      periph := .scripted [false, false, true, true, true, true, false, false] }

theorem witness_StepRunsDecodedCommand :
    let s := { standing [.sendb 0x41] .p with sched := [.main] }
    programAccepted s.prog = true ∧ s.prog[s.idx]? = some 0x0141 ∧
      decode 0x0141 = .ok (.sendb 0x41) ∧ s.tickEnabled = false ∧ s.timerFires = false := by decide

theorem witness_EnabledTickGoesFirst :
    ticking.tickEnabled = true ∧ programAccepted ticking.prog = true ∧
      Instr.now.hostWellFormed = true ∧ ∃ t, exec .tick ticking = .next t :=
  ⟨by decide, by decide, by decide, _, rfl⟩

theorem witness_TickCompletesExactlyWhenEnabled :
    (ticking.ie = true ∧ ticking.pend = true) ∧
      ¬(State.reset.ie = true ∧ State.reset.pend = true) := by decide

theorem witness_TimerMovesWhenChosenOrAlone_chosen :
    let s := { standing [.now] .n1 with sched := [.expire] }
    programAccepted s.prog = true ∧ s.tickEnabled = false ∧ s.timerFires = true ∧
      ¬s.prog.length ≤ s.idx := by decide

theorem witness_TimerMovesWhenChosenOrAlone_alone :
    let s := { standing [.delay] .none with idx := 1, sched := [.main] }
    programAccepted s.prog = true ∧ s.tickEnabled = false ∧ s.timerFires = false ∧
      s.prog.length ≤ s.idx := by decide

theorem witness_ExpiryIsServicedAtOnce :
    State.reset.ie = true ∧ programAccepted State.reset.prog = true ∧
      ∃ t, exec .expire State.reset = .next t := ⟨rfl, by decide, _, rfl⟩

theorem witness_ProgramRefusedExactlyForBadWord :
    (∃ w ∈ ([0x0600] : List CmdWord), ∃ e, decode w = .error e) ∧
      ∃ w ∈ ([0x8100] : List CmdWord), ∃ i, decode w = .ok i ∧ i.isEvent = true :=
  ⟨⟨0x0600, by simp, .unknownOpcode, by decide⟩, 0x8100, by simp, .expire, by decide, by decide⟩

theorem witness_InvariantHoldsAfterLoading :
    programAccepted (assemble [.sendb 0x41, .now]) = true := by decide

theorem witness_TickRunsBitClockThenTimeBase_example :
    let s := { State.reset with busy := true, bitIdx := 0, shift := 0x41, acc := 927, pend := true }
    s.cfg.TimeCoherent ∧ s.cfg.t0 = 103 ∧ s.cfg.msUnits = 1000 ∧ s.ie = true ∧ s.pend = true ∧ s.AccBounded ∧ s.busy = true ∧ s.bitIdx = 0 ∧ s.shift = 0x41 ∧
      s.txLine = true ∧ s.acc = 927 ∧ s.millis = 0 := by decide

theorem witness_TickRunsBitClockThenTimeBase_idle :
    ticking.ie = true ∧ ticking.pend = true ∧ ticking.busy = false := by decide

theorem witness_UartStepDrivesOnePosition_start :
    let s := { ticking with busy := true, bitIdx := 0 }
    s.cfg.WidthsCoherent ∧ s.busy = true ∧ s.bitIdx = 0 ∧ s.bitIdx ≤ 9 ∧
      (uartStep s).busy = true := by decide
theorem witness_UartStepDrivesOnePosition_data_first :
    let s := { ticking with busy := true, bitIdx := 1 }
    s.cfg.WidthsCoherent ∧ s.busy = true ∧ 1 ≤ s.bitIdx ∧ s.bitIdx ≤ 8 := by decide
theorem witness_UartStepDrivesOnePosition_data_last :
    let s := { ticking with busy := true, bitIdx := 8 }
    s.cfg.WidthsCoherent ∧ s.busy = true ∧ 1 ≤ s.bitIdx ∧ s.bitIdx ≤ 8 ∧ (uartStep s).busy = true := by decide
theorem witness_UartStepDrivesOnePosition_stop :
    let s := { ticking with busy := true, bitIdx := 9 }
    s.cfg.WidthsCoherent ∧ s.busy = true ∧ 9 ≤ s.bitIdx ∧ ¬s.bitIdx ≤ 8 := by decide
theorem witness_UartStepDrivesOnePosition_idle :
    ticking.cfg.WidthsCoherent ∧ ticking.busy = false ∧ ∃ t, exec .tick ticking = .next t :=
  ⟨by decide, rfl, _, rfl⟩

theorem witness_TimeBaseStepCarriesWholeMilliseconds_below :
    let s := { State.reset with acc := 896 }
    s.cfg.TimeCoherent ∧ s.AccBounded ∧ 0 < s.cfg.msUnits ∧
      ¬s.cfg.msUnits + s.cfg.tbCarryStrict.toNat ≤ s.acc.toNat + s.cfg.t0 := by decide
theorem witness_TimeBaseStepCarriesWholeMilliseconds_exact :
    let s := { State.reset with acc := 897 }
    s.cfg.TimeCoherent ∧ s.AccBounded ∧
      s.cfg.msUnits + s.cfg.tbCarryStrict.toNat ≤ s.acc.toNat + s.cfg.t0 := by decide
theorem witness_TimeBaseStepCarriesWholeMilliseconds_strict :
    let s := { State.reset with
                 acc := 1000, cfg := { Config.Params.normative with tbCarryStrict := true } }
    s.cfg.TimeCoherent ∧ s.AccBounded := by decide

/-- From reset with nothing loaded: an expiry, and the tick it enables. -/
theorem witness_CounterIsFloorOfElapsedUnits :
    State.reset.cfg.TimeCoherent ∧ State.reset.CleanTimeBase ∧
      State.reset.cfg.tbCarryStrict = false ∧ (∃ t, run 2 State.reset = .next t) ∧
      (runOps 2 State.reset).count .tick = 1 ∧
      State.reset.cfg.t0 * (runOps 2 State.reset).count .tick < State.reset.cfg.msUnits * 2 ^ 64 :=
  ⟨by decide, by decide, rfl, ⟨_, rfl⟩, by decide, by decide⟩

theorem witness_StrictCounterClosedForm :
    let s := { State.reset with cfg := { Config.Params.normative with tbCarryStrict := true } }
    s.cfg.TimeCoherent ∧ s.CleanTimeBase ∧ s.cfg.tbCarryStrict = true ∧
      (∃ t, run 2 s = .next t) ∧ 1 ≤ (runOps 2 s).count .tick ∧
      s.cfg.t0 * (runOps 2 s).count .tick < s.cfg.msUnits * 2 ^ 64 :=
  ⟨by decide, by decide, rfl, ⟨_, rfl⟩, by decide, by decide⟩

theorem witness_TimeBaseMovesOnlyInTick :
    (∃ t, step ticking = .next t) ∧ ticking.nextOp = some .tick ∧
      ticking.cfg.TimeCoherent ∧ ticking.AccBounded ∧
      (∃ t, step State.reset = .next t) ∧ State.reset.nextOp ≠ some .tick :=
  ⟨⟨_, rfl⟩, by decide, by decide, by decide, ⟨_, rfl⟩, by decide⟩

theorem witness_CounterNeverDecreases :
    ticking.cfg.TimeCoherent ∧
      ({ ticking with acc := 999, millis := 0xFFFFFFFFFFFFFFFE } : State).AccBounded ∧
      ({ ticking with acc := 999, millis := 0xFFFFFFFFFFFFFFFE } : State).millis.toNat + 1 < 2 ^ 64 ∧
      ∃ t, run 1 { ticking with acc := 999, millis := 0xFFFFFFFFFFFFFFFE } = .next t :=
  ⟨by decide, by decide, by decide, _, rfl⟩

theorem witness_ExpireLatchesOneExpiry :
    State.reset.tickEnabled = false ∧
      ({ State.reset with ie := false, pend := true } : State).tickEnabled = false ∧
      ({ State.reset with ie := false, pend := true } : State).pend = true ∧
      ticking.tickEnabled = true := by decide

theorem witness_EveryExpiryIsServicedPendingOrLost :
    ∃ t, run 3 { standing [.irqoff] .zero with sched := [.main, .expire, .expire] } = .next t :=
  ⟨_, rfl⟩

/-- A run on which `LOST` stays 0, a state of it with an expiry pending, and one whose next operation
is `EXPIRE`. -/
theorem witness_EveryExpiryIsServicedPendingOrLost_noLoss :
    State.reset.NoLossOnRun ∧
      (∃ t, run 3 State.reset = .next t ∧ t.pend = true) ∧
      runOps 3 State.reset = [.expire, .tick, .expire] ∧
      ∃ t, run 2 State.reset = .next t ∧ t.nextOp = some .expire :=
  ⟨noLossOnRun_of_finished rfl (Nat.le_refl _) rfl rfl, ⟨_, rfl, rfl⟩, by decide, _, rfl, by decide⟩

/-- Inside `NOW`, one expiry and then the rest of it. -/
def reading : State :=
  { standing [.now] .n2 with ie := false, sched := [.expire, .main, .main] }

/-- What the run of `reading` passes: two states inside `NOW` after the first, then past the end. -/
theorem reading_run : (∃ t, run 2 reading = .next t ∧ t.phase = .n3) ∧
    ∃ t, run 3 reading = .next t ∧ programAccepted t.prog = true ∧ t.prog.length ≤ t.idx ∧
      t.phase = .none := ⟨⟨_, rfl, rfl⟩, _, rfl, by decide, by decide, rfl⟩

theorem reading_spansOne : reading.NowSpansAtMostOneExpiry := by
  intro n m t u hn hm hin
  obtain ⟨w, hw, hp, hd, hph⟩ := reading_run.2
  by_cases hlt : n + m < 3
  · have : (runOps 2 reading).count .expire = 1 := by decide
    obtain ⟨j, hj⟩ := Nat.exists_eq_add_of_le (show n + m ≤ 2 by omega)
    have h2 : run (n + m) reading = .next u := (run_add hn).trans hm
    rw [hj, runOps_add h2, runOps_add hn, List.count_append, List.count_append] at this
    omega
  · exfalso
    by_cases h3 : n ≤ 3
    · obtain ⟨j, hj⟩ := Nat.exists_eq_add_of_le h3
      have hw' : run j t = .next w := by
        rw [hj] at hw
        exact (run_add hn).symm.trans hw
      have := hin j (by omega) w hw'
      rw [State.inNow, hph] at this
      simp at this
    · obtain ⟨j, hj⟩ := Nat.exists_eq_add_of_le (show 3 ≤ n by omega)
      rw [hj, run_add hw] at hn
      have := (finished_run hp hd hn).2.2
      have h0 := hin 0 (Nat.zero_le m) t rfl
      rw [State.inNow, this, hph] at h0
      simp at h0

theorem witness_EveryExpiryIsServicedPendingOrLost_now :
    reading.NowSpansAtMostOneExpiry ∧ reading.NowSection ∧ reading.phase = .n2 ∧
      reading.pend = false ∧ (∃ t, run 1 reading = .next t) ∧
      (∀ k ≤ 1, ∀ u, run k reading = .next u → u.inNow) ∧ Instr.expire ∈ runOps 1 reading := by
  refine ⟨reading_spansOne, by decide, rfl, rfl, ⟨_, rfl⟩, ?_, by decide⟩
  intro k hk u hu
  obtain rfl | rfl : k = 0 ∨ k = 1 := by omega
  all_goals
    cases hu
    exact .inl rfl

theorem witness_NowReturnsCounterAndRestoresEnable :
    (standing [.now] .n1).tickEnabled = false ∧ (standing [.now] .n1).phase = .n1 := by decide

theorem witness_NowPhasesSaveReadRestore :
    (standing [.now] .n1).tickEnabled = false ∧ (standing [.now] .n1).phase = .n1 ∧
      (standing [.now] .n2).tickEnabled = false ∧ (standing [.now] .n2).phase = .n2 ∧
      (standing [.now] .n3).tickEnabled = false ∧ (standing [.now] .n3).phase = .n3 := by decide

theorem witness_NowCriticalSectionFreezesCounter_read :
    let s := { standing [.now] .n2 with ie := false, sched := [.main] }
    s.NowSection ∧ s.phase = .n2 ∧ s.nextOp = some .now ∧ ∃ t, step s = .next t :=
  ⟨by decide, rfl, by decide, _, rfl⟩
theorem witness_NowCriticalSectionFreezesCounter_restore :
    let s := { standing [.now] .n3 with ie := false, millis := 2, v := 2, sched := [.main] }
    s.NowSection ∧ s.phase = .n3 ∧ s.nextOp = some .now ∧ ∃ t, step s = .next t :=
  ⟨by decide, rfl, by decide, _, rfl⟩

theorem witness_SendbPollsThenLoads :
    hanging.tickEnabled = false ∧ hanging.phase = .p ∧ hanging.busy = true ∧
      (standing [.sendb 0] .p).tickEnabled = false ∧ (standing [.sendb 0] .p).phase = .p ∧
      (standing [.sendb 0] .p).busy = false ∧ (standing [.sendb 0] .l).phase = .l ∧
      (standing [.sendb 0] .l).busy = false ∧
      ({ hanging with phase := .l } : State).phase = .l ∧
      ({ hanging with phase := .l } : State).busy = true := by decide

theorem witness_TransmitterOverrunIsUnreachable :
    let s := { standing [.sendb 0] .l with sched := [.main] }
    s.LoadIsSafe ∧ s.phase = .l ∧ ∃ t, step s = .next t := ⟨by decide, rfl, _, rfl⟩

/-- A frame just loaded stands before its first position. -/
theorem frame_loaded : ({ ticking with busy := true, shift := 0x41 } : State).FrameAt 0x41 0 :=
  ⟨by decide, rfl, by decide, rfl, by decide, fun _ h => absurd h (by omega)⟩

/-- A frame before its last position. -/
theorem frame_ending :
    ({ ticking with busy := true, bitIdx := 9, txLine := false } : State).FrameAt 0x41 9 :=
  ⟨by decide, rfl, by decide, rfl, by decide, fun j h => by
    have : j = 8 := by omega
    subst this; rfl⟩

theorem witness_FramePositionsHoldUntilNextTick :
    (∃ t, exec .tick { ticking with busy := true, shift := 0x41 } = .next t) ∧
      (∃ t, exec .tick { ticking with busy := true, bitIdx := 9, txLine := false } = .next t) ∧
      (∃ t, step State.reset = .next t) ∧ State.reset.busy = false ∧
      State.reset.nextOp ≠ some .tick :=
  ⟨⟨_, rfl⟩, ⟨_, rfl⟩, ⟨_, rfl⟩, rfl, by decide⟩

theorem witness_FrameTickByTick :
    State.reset.cfg.WidthsCoherent ∧
      ({ State.reset with busy := true, shift := 0x41 } : State).busy = true ∧
      ({ State.reset with busy := true, shift := 0x41 } : State).bitIdx = 0 ∧
      ({ State.reset with busy := true, shift := 0x41 } : State).shift = 0x41 := by decide

theorem witness_FrameInFlightMovesOnlyByTick_first :
    let s := { ticking with busy := true, shift := 0x41 }
    s.LoadIsSafe ∧ s.FrameAt 0x41 0 ∧ s.nextOp = some .tick ∧ ∃ t, step s = .next t :=
  ⟨by decide, frame_loaded, by decide, _, rfl⟩
theorem witness_FrameInFlightMovesOnlyByTick_last :
    let s := { ticking with busy := true, bitIdx := 9, txLine := false }
    s.LoadIsSafe ∧ s.FrameAt 0x41 9 ∧ s.nextOp = some .tick ∧ ∃ t, step s = .next t :=
  ⟨by decide, frame_ending, by decide, _, rfl⟩
theorem witness_FrameInFlightMovesOnlyByTick_other :
    let s := { ticking with busy := true, shift := 0x41, pend := false, sched := [.main] }
    s.LoadIsSafe ∧ s.FrameAt 0x41 0 ∧ s.nextOp = some .now ∧ ∃ t, step s = .next t :=
  ⟨by decide, ⟨by decide, rfl, by decide, rfl, by decide, fun _ h => absurd h (by omega)⟩,
    by decide, _, rfl⟩

theorem witness_SampledLineIsTheFrame :
    let s := { ticking with busy := true, shift := 0x41 }
    s.LoadIsSafe ∧ s.FrameAt 0x41 0 ∧ lineTrace 1 s = [false] :=
  ⟨by decide, frame_loaded, by decide⟩

theorem witness_BusyClearsWithinTenTicks :
    ticking.cfg.WidthsCoherent ∧ (({ ticking with busy := true } : State).busy = true ∧
      ({ ticking with busy := true } : State).bitIdx ≤ 9) ∧
      (({ ticking with busy := true, bitIdx := 9 } : State).busy = true ∧
        ({ ticking with busy := true, bitIdx := 9 } : State).bitIdx ≤ 9) := by decide

theorem witness_DisabledInterruptsHangSendb :
    programAccepted hanging.prog = true ∧ hanging.current = some (.sendb 0x41) ∧
      hanging.phase = .p ∧ hanging.busy = true ∧ hanging.ie = false ∧
      hanging.tickEnabled = false := by decide

/-- Ten expiries and ten ticks, with nothing loaded. -/
theorem witness_DisabledInterruptsHangSendb_drains :
    draining.cfg.WidthsCoherent ∧ draining.busy = true ∧ draining.bitIdx ≤ 9 ∧
      (∃ t, run 20 draining = .next t) ∧
      10 ≤ (runOps 20 draining).count .tick := ⟨by decide, rfl, by decide, ⟨_, rfl⟩, by decide⟩

theorem witness_DisabledInterruptsHangSendb_idle :
    (standing [.sendb 0] .p).tickEnabled = false ∧ (standing [.sendb 0] .p).phase = .p ∧
      (standing [.sendb 0] .p).busy = false := by decide

theorem witness_DisabledInterruptsHangSendb_clears :
    let s := { ticking with busy := true, bitIdx := 9 }
    s.busy = true ∧ (after (step s)).map (fun t => t.busy) = some false := by decide

/-- A poll met with a frame before its last position, then a fair run: after it only the timer is
left. -/
def waiting : State :=
  { standing [.sendb 0x41] .p with
      busy := true, bitIdx := 9, sched := [.expire, .main, .main] }

theorem waiting_run : ∃ t, run 4 waiting = .next t ∧ programAccepted t.prog = true ∧
    t.prog.length ≤ t.idx := ⟨_, rfl, by decide, by decide⟩

theorem witness_FairTimerEndsBusyWait :
    waiting.TimerFair ∧ programAccepted waiting.prog = true ∧ waiting.cfg.WidthsCoherent ∧
      waiting.current = some (.sendb 0x41) ∧ waiting.phase = .p ∧ waiting.busy = true ∧
      waiting.bitIdx ≤ 9 ∧ waiting.ie = true := by
  obtain ⟨t, h, hp, hd⟩ := waiting_run
  exact ⟨timerFair_of_run h (timerFair_of_finished hp hd), by decide, by decide, by decide, rfl, rfl,
    by decide, rfl⟩

theorem witness_XferLoadsClearsPulsesReturns :
    transferring.tickEnabled = false ∧ transferring.phase = .x1 ∧
      ({ transferring with phase := .x2 } : State).phase = .x2 ∧
      (pulse { transferring with phase := .x3, done := false, cnt := 6 }).done = false ∧
      (pulse { transferring with phase := .x3, done := false, cnt := 7 }).done = true ∧
      ({ transferring with phase := .x4 } : State).phase = .x4 := by decide

theorem witness_PulseShiftsOneBitEachWay :
    transferring.cfg.busMsbFirst = true ∧ transferring.cfg.busFaulty = false ∧
      ({ transferring with cnt := 7 } : State).cnt + 1 = transferring.cfg.busW ∧
      transferring.cnt + 1 ≠ transferring.cfg.busW ∧
      transferring.periph = .scripted (false :: [false, true, true, true, true, false, false]) ∧
      ({ transferring with cfg := { transferring.cfg with busMsbFirst := false } } :
        State).cfg.busMsbFirst = false := by decide

theorem witness_EightPulsesExchangeOneByte :
    let s := { transferring with cnt := 0, done := false }
    s.cfg.WidthsCoherent ∧ s.cnt = 0 ∧ s.done = false ∧ s.cfg.busFaulty = false ∧
      8 ≤ [false, false, true, true, true, true, false, false].length ∧
      s.periph = .scripted [false, false, true, true, true, true, false, false] := by decide

theorem witness_XferReturnsAnsweredByteInElevenPhases :
    transferring.cfg.WidthsCoherent ∧ transferring.tickEnabled = false ∧ transferring.phase = .x1 ∧
      transferring.cfg.busFaulty = false ∧
      8 ≤ [false, false, true, true, true, true, false, false].length ∧
      transferring.periph = .scripted [false, false, true, true, true, true, false, false] := by
  decide

theorem witness_EchoTransferReturnsItsOperand :
    let s := { transferring with periph := .echo }
    s.cfg.WidthsCoherent ∧ s.tickEnabled = false ∧ s.phase = .x1 ∧ s.cfg.busFaulty = false ∧
      s.periph = .echo := by decide

theorem witness_FaultyBusHangsTransfer :
    let s := { standing [.xfer 0xA5] .x3 with
                 cfg := { Config.Params.normative with busFaulty := true } }
    s.tickEnabled = false ∧ s.phase = .x3 ∧ s.done = false ∧ s.cfg.busFaulty = true := by decide

theorem witness_TickCommutesWithTransfer :
    ∃ t, exec (.xfer 0xA5) { transferring with phase := .x3, busy := true, shift := 0x55 } =
      .next t := ⟨_, rfl⟩

theorem witness_BusDataNeverLeaksIntoTheBlock :
    ∃ t, step { transferring with sched := [.main] } = .next t := ⟨_, rfl⟩
/-- The last phase of `XFER` returns what the shift register holds. -/
theorem witness_BusDataNeverLeaksIntoTheBlock_xfer :
    let s := { transferring with phase := .x4, sr := 0x3C, sched := [.main] }
    s.nextOp = some (.xfer 0xA5) ∧ (after (step s)).map (fun t => t.ret) = some (.byte 0x3C) := by
  decide
/-- `IRQOFF` and the last phase of `NOW`. -/
theorem witness_BusDataNeverLeaksIntoTheBlock_returns :
    let s := { standing [.irqoff] .zero with sched := [.main] }
    let u := { standing [.now] .n3 with ie := false, v := 7, sched := [.main] }
    (s.nextOp = some .irqoff ∧ ∃ t, step s = .next t) ∧ u.nextOp = some .now ∧ u.phase = .n3 ∧
      (after (step u)).map (fun t => t.ret) = some (.millis 7) :=
  ⟨⟨by decide, _, rfl⟩, by decide, rfl, by decide⟩
/-- A run past the end of a transfer. -/
theorem witness_BusDataNeverLeaksIntoTheBlock_run :
    ∃ t, run 2 { standing [.xfer 0xA5, .irqoff] .x4 with sched := [.main, .main] } = .next t ∧
      t.idx = 2 := ⟨_, rfl, rfl⟩

theorem witness_IrqoffSavesAndDisables :
    (standing [.irqoff, .irqrst true] .zero).tickEnabled = false ∧
      (standing [.irqoff, .irqrst true] .zero).phase = .zero ∧
      arrivalPhase (standing [.irqoff, .irqrst true] .zero).prog 1 = .zero ∧
      ({ standing [.irqoff] .zero with ie := false } : State).tickEnabled = false ∧
      ({ standing [.irqoff] .zero with ie := false } : State).phase = .zero ∧
      ({ standing [.irqoff] .zero with ie := false } : State).ie = false := by decide

theorem witness_IrqrstRestoresEnable :
    let s := { standing [.irqrst true] .zero with ie := false, pend := true }
    s.tickEnabled = false ∧ s.phase = .zero ∧ s.pend = true ∧ programAccepted s.prog = true := by
  decide

theorem witness_InterruptEnableHasThreeWriters :
    (standing [.now] .n1).tickEnabled = false ∧ (standing [.now] .n1).phase = .n1 ∧
      (after (exec .now (standing [.now] .n1))).map (fun t => t.ie != State.reset.ie) =
        some true := by decide

theorem witness_DisabledSectionFreezesHandlerState_opens :
    let s := { standing [.irqoff] .zero with sched := [.main] }
    s.ie = true ∧ (after (step s)).map (fun t => t.ie) = some false := by decide
theorem witness_DisabledSectionFreezesHandlerState :
    hanging.ie = false ∧ (∃ t, step hanging = .next t) ∧
      ({ transferring with ie := false } : State).ie = false ∧
      ∃ u, exec (.xfer 0xA5) { transferring with ie := false } = .next u :=
  ⟨rfl, ⟨_, rfl⟩, rfl, _, rfl⟩

theorem witness_ChipSelectOperationsDriveCs :
    (standing [.cson] .zero).tickEnabled = false ∧ (standing [.cson] .zero).phase = .zero := by decide
theorem witness_EnableOperationsDriveEn :
    (standing [.enon] .zero).tickEnabled = false ∧ (standing [.enon] .zero).phase = .zero := by decide
theorem witness_DelayOnlyAdvancesPosition :
    (standing [.delay] .zero).tickEnabled = false ∧ (standing [.delay] .zero).phase = .zero := by
  decide

/-- No double is attached: for the chip-select and for the enable operations. -/
theorem witness_ChipSelectOperationsDriveCs_noDouble :
    ∀ m, (standing [.cson] .zero).periph ≠ .regModel m := by
  intro m h
  cases h

theorem witness_WriteToClearScenario :
    let s := { standing [.xfer 0x27, .xfer 0x10] .x1 with cs := true, periph := .regModel double }
    s.cfg.WidthsCoherent ∧ s.tickEnabled = false ∧ s.phase = .x1 ∧ s.cfg.busFaulty = false ∧
      s.cs = true ∧ double.armed = false ∧ s.periph = .regModel double ∧ double.byteCount = 0 ∧
      double.bitCount = 0 ∧
      double.table.cmdWrite ||| double.table.regStatus = 0x27 ∧
      commandAt s.prog (s.idx + 1) = some (.xfer 0x10) := by decide

theorem witness_FlushIsIdempotent : double.armed = false := rfl

theorem witness_PollEndsOnFirstCompletedStatus :
    let c := Config.Params.normative
    double.table.FlagsCoherent c.pollMask ∧
      (∀ x ∈ ([0x0E, 0xCF] : List Byte), x &&& c.pollMask = 0) ∧ (0x2E : Byte) &&& c.pollMask ≠ 0 ∧
      (0x1E : Byte) &&& c.pollMask ≠ 0 := by decide

/-- The poll of one read on the machine: at its thirteenth step the transfer has left the status,
and at its fifteenth the poll has ended. -/
theorem witness_MachineRunsThePoll :
    polling = Session.begin polling.machine double.table ∧
      polling.machine.idx = polling.machine.prog.length ∧
      (afterSession (polling.run 13)).map (fun q => (q.awaiting, q.machine.finished)) =
        some (true, true) ∧
      (afterSession (polling.run 15)).map (fun q => (q.poll, q.kept, q.machine.en)) =
        some (.finished, [0x2E], false) := ⟨rfl, rfl, by decide, by decide⟩

theorem witness_ElementsChangeOnlyAsTabled :
    (∃ t, exec .tick ticking = .next t) ∧ Element.ie ∉ writeSet .tick := ⟨⟨_, rfl⟩, by decide⟩

theorem witness_OnlyOwnersChangeTheRest :
    (∃ t, exec .tick ticking = .next t) ∧ Instr.tick.isEvent = true ∧
      ∃ t, exec .now (standing [.now] .n1) = .next t := ⟨⟨_, rfl⟩, rfl, _, rfl⟩

theorem witness_FlagsChangeOnlyAsTabled_busySet :
    let s := { standing [.sendb 0x41] .l with sched := [.main] }
    s.NowSection ∧ (after (step s)).map (fun t => (s.busy, t.busy)) = some (false, true) := by decide
theorem witness_FlagsChangeOnlyAsTabled_tick :
    let s := { ticking with busy := true, bitIdx := 9 }
    s.NowSection ∧ (after (step s)).map (fun t => ((s.busy, t.busy), (s.pend, t.pend))) =
      some ((true, false), (true, false)) := by decide
theorem witness_FlagsChangeOnlyAsTabled_doneSet :
    let s := { transferring with phase := .x3, done := false, cnt := 7, sched := [.main] }
    s.NowSection ∧ (after (step s)).map (fun t => (s.done, t.done)) = some (false, true) := by decide
theorem witness_FlagsChangeOnlyAsTabled_doneClear :
    let s := { transferring with phase := .x2, sched := [.main] }
    s.NowSection ∧ (after (step s)).map (fun t => (s.done, t.done)) = some (true, false) := by decide
theorem witness_FlagsChangeOnlyAsTabled_enable :
    let s := { standing [.now] .n3 with ie := false, saved := true, sched := [.main] }
    s.NowSection ∧ (after (step s)).map (fun t => (s.ie, t.ie)) = some (false, true) := by decide
theorem witness_FlagsChangeOnlyAsTabled_disable :
    let s := { standing [.irqoff] .zero with sched := [.main] }
    s.NowSection ∧ (after (step s)).map (fun t => (s.ie, t.ie)) = some (true, false) := by decide
theorem witness_FlagsChangeOnlyAsTabled_expire : State.reset.NowSection ∧
    (after (step State.reset)).map (fun t => (State.reset.pend, t.pend)) = some (false, true) := by
  decide

theorem witness_ProgramAndParametersAreImmutable :
    ∃ t, run 2 { standing [.cson, .csoff] .zero with sched := [.main, .main] } = .next t := ⟨_, rfl⟩

/-- A state with a transfer in flight that meets the invariant, and its step: for
`EveryStepKeepsInvariant` and for `AcceptedProgramNeverStops`. -/
theorem witness_EveryStepKeepsInvariant :
    let s := { transferring with phase := .x3, done := false, sched := [.main] }
    s.Inv ∧ programAccepted s.prog = true ∧ ∃ t, step s = .next t :=
  ⟨⟨by decide, by decide, by decide, by decide, by decide, by decide, by decide,
    ⟨Nat.zero_le _, List.mem_cons_of_mem _ (List.mem_cons_of_mem _ (List.mem_cons_self ..))⟩⟩,
    by decide, _, rfl⟩

end Sys2Proof.Tests
end

/-!
PROOFS. What an interrupt-disabled section keeps (spec 20_memory.md R53): the frame of each host
operation, the writers of the interrupt enable, of the Time Base and of the transmitter, and the
bus beside the interrupt flags.
-/

namespace Sys2Proof.Machine

open Sys2Proof

variable {s t u : State} {i : Instr} {b : Byte}

/-! ## The frame of each operation (46_control_and_access.md R214) -/

theorem execSendb_frame (h : execSendb b s = .next t) :
    t = { s with busy := t.busy, bitIdx := t.bitIdx, shift := t.shift, idx := t.idx,
                 phase := t.phase } := by
  obtain ⟨-, ⟨-, -, rfl⟩ | ⟨-, -, rfl⟩ | ⟨-, -, rfl⟩⟩ := execSendb_next h <;> rfl

theorem execXfer_frame (h : execXfer b s = .next t) :
    t = { s with sr := t.sr, done := t.done, cnt := t.cnt, periph := t.periph, seen := t.seen,
                 idx := t.idx, phase := t.phase, ret := t.ret } := by
  obtain ⟨-, ⟨-, rfl⟩ | ⟨-, rfl⟩ | ⟨-, -, rfl⟩ | ⟨-, -, rfl⟩ | ⟨-, rfl⟩⟩ := execXfer_next h
  · rfl
  · rfl
  · rw [pulse_frame]; rfl
  · rw [pulse_frame]
  · rfl

theorem execNow_frame (h : execNow s = .next t) :
    t = { s with ie := t.ie, saved := t.saved, v := t.v, ret := t.ret, idx := t.idx,
                 phase := t.phase } := by
  obtain ⟨-, ⟨-, rfl⟩ | ⟨-, rfl⟩ | ⟨-, rfl⟩⟩ := execNow_next h <;> rfl

theorem execIrqoff_frame (h : execIrqoff s = .next t) :
    t = { s with ie := false, ret := t.ret, idx := t.idx, phase := t.phase } := by
  obtain ⟨-, -, rfl⟩ := execIrqoff_next.1 h
  rfl

theorem execIrqrst_frame {e : Bool} (h : execIrqrst e s = .next t) :
    t = { s with ie := e, idx := t.idx, phase := t.phase } := by
  obtain ⟨-, -, rfl⟩ := execIrqrst_next.1 h
  rfl

theorem execExpire_frame (h : execExpire s = .next t) :
    t = { s with lost := t.lost, pend := t.pend } := by
  obtain ⟨-, rfl⟩ := execExpire_next.1 h
  rfl

/-- The environment operations and `DELAY` touch the lines and the peripheral only
(45_sequencer_environment.md R195 to R199). -/
theorem exec_env_frame (hi : i ∈ [Instr.cson, .csoff, .enon, .enoff, .delay])
    (h : exec i s = .next t) :
    t = { s with cs := t.cs, en := t.en, periph := t.periph, seen := t.seen, idx := t.idx,
                 phase := t.phase } := by
  simp only [List.mem_cons, List.not_mem_nil, or_false] at hi
  rcases hi with rfl | rfl | rfl | rfl | rfl
  · obtain ⟨-, -, rfl⟩ := execCson_next.1 h; rfl
  · obtain ⟨-, -, rfl⟩ := execCsoff_next.1 h; rfl
  · obtain ⟨-, -, rfl⟩ := execEnon_next.1 h; rfl
  · obtain ⟨-, -, rfl⟩ := execEnoff_next.1 h; rfl
  · obtain ⟨-, -, rfl⟩ := execDelay_next.1 h; rfl

/-! ## Who writes the interrupt enable and what the handler writes -/

/-- Every way a step treats `IE`: it leaves it, or one of the three writers sets it
(44_irq_control.md R180). -/
theorem exec_ie_cases (h : exec i s = .next t) :
    t.ie = s.ie ∨
    (i = .irqoff ∧ t.ie = false) ∨
    (∃ e, i = .irqrst e ∧ t.ie = e) ∨
    (i = .now ∧ s.phase = .n1 ∧ t.ie = false) ∨
    (i = .now ∧ s.phase = .n3 ∧ t.ie = s.saved) := by
  cases i with
  | sendb b => left; rw [execSendb_frame h]
  | xfer b => left; rw [execXfer_frame h]
  | now =>
    obtain ⟨-, ⟨hp, rfl⟩ | ⟨-, rfl⟩ | ⟨hp, rfl⟩⟩ := execNow_next h
    · simp [hp]
    · simp
    · simp [hp]
  | irqoff => exact .inr (.inl ⟨rfl, congrArg State.ie (execIrqoff_frame h)⟩)
  | irqrst e => exact .inr (.inr (.inl ⟨e, rfl, congrArg State.ie (execIrqrst_frame h)⟩))
  | cson | csoff | enon | enoff | delay => left; rw [exec_env_frame (by simp) h]
  | tick =>
    obtain ⟨-, rfl⟩ := execTick_next.1 h
    left; rw [tickBody_frame, interruptEntry_ie]
  | expire => left; rw [execExpire_frame h]

/-- Only `TICK` writes the Time Base and the serial line (R214). -/
theorem exec_keeps_timeBase_and_line (hi : i ≠ .tick) (h : exec i s = .next t) :
    t.millis = s.millis ∧ t.acc = s.acc ∧ t.txLine = s.txLine := by
  cases i with
  | sendb b => rw [execSendb_frame h]; simp
  | xfer b => rw [execXfer_frame h]; simp
  | now => rw [execNow_frame h]; simp
  | irqoff => rw [execIrqoff_frame h]; simp
  | irqrst e => rw [execIrqrst_frame h]; simp
  | cson | csoff | enon | enoff | delay => rw [exec_env_frame (by simp) h]; simp
  | tick => exact absurd rfl hi
  | expire => rw [execExpire_frame h]; simp

/-- Beside `TICK`, only the load phase of `SENDB` writes the transmitter (42_uart_tx.md R125,
R214). -/
theorem exec_keeps_transmitter_or_loads (hi : i ≠ .tick) (h : exec i s = .next t) :
    (t.busy = s.busy ∧ t.bitIdx = s.bitIdx ∧ t.shift = s.shift) ∨
    ∃ b, i = .sendb b ∧ s.phase = .l ∧ s.busy = false ∧
      t.busy = true ∧ t.bitIdx = 0 ∧ t.shift = b := by
  cases i with
  | sendb b =>
    obtain ⟨-, ⟨-, -, rfl⟩ | ⟨-, -, rfl⟩ | ⟨hp, hb, rfl⟩⟩ := execSendb_next h
    · simp
    · simp
    · exact .inr ⟨b, rfl, hp, hb, by simp⟩
  | xfer b => left; rw [execXfer_frame h]; simp
  | now => left; rw [execNow_frame h]; simp
  | irqoff => left; rw [execIrqoff_frame h]; simp
  | irqrst e => left; rw [execIrqrst_frame h]; simp
  | cson | csoff | enon | enoff | delay => left; rw [exec_env_frame (by simp) h]; simp
  | tick => exact absurd rfl hi
  | expire => left; rw [execExpire_frame h]; simp

/-! ## Inside a section -/

theorem tickEnabled_of_ie_false (h : s.ie = false) : s.tickEnabled = false := by
  simp [State.tickEnabled, h]

/-- With interrupts disabled a completed step is no `TICK` (40_tick.md R91). -/
theorem ne_tick_of_ie_false (hs : s.ie = false) (h : exec i s = .next t) : i ≠ .tick := by
  rintro rfl
  have henabled := (execTick_next.1 h).1
  rw [tickEnabled_of_ie_false hs] at henabled
  cases henabled

/-- The operation that sets `IE` in a section is `IRQRST 1` or the last phase of `NOW`. -/
theorem section_closer (hs : s.ie = false) (h : exec i s = .next t) (ht : t.ie = true) :
    i = .irqrst true ∨ (i = .now ∧ s.phase = .n3) := by
  rcases exec_ie_cases h with hk | ⟨-, hf⟩ | ⟨e, rfl, he⟩ | ⟨-, -, hf⟩ | ⟨hi, hp, -⟩
  · rw [hk, hs] at ht; cases ht
  · rw [hf] at ht; cases ht
  · left; rw [← he, ht]
  · rw [hf] at ht; cases ht
  · exact .inr ⟨hi, hp⟩

/-- The operation that clears `IE` is `IRQOFF`, `IRQRST 0` or `NOW`. -/
theorem section_opener (hs : s.ie = true) (h : exec i s = .next t) (ht : t.ie = false) :
    i = .irqoff ∨ i = .irqrst false ∨ i = .now := by
  rcases exec_ie_cases h with hk | ⟨hi, -⟩ | ⟨e, rfl, he⟩ | ⟨hi, -, -⟩ | ⟨hi, -, -⟩
  · rw [hk, hs] at ht; cases ht
  · exact .inl hi
  · right; left; rw [← he, ht]
  · exact .inr (.inr hi)
  · exact .inr (.inr hi)

/-! ## The bus beside the interrupt flags -/

/-- The two interrupt flags set to given values, everything else as it is. -/
def State.withIrq (s : State) (e p : Bool) : State := { s with ie := e, pend := p }

@[simp] theorem withIrq_phase (e p : Bool) : (s.withIrq e p).phase = s.phase := rfl
@[simp] theorem withIrq_tickEnabled (e p : Bool) : (s.withIrq e p).tickEnabled = (e && p) := rfl

/-- A pulse neither reads nor writes the interrupt flags (43_bus_transfer.md R152, R153). -/
theorem pulse_withIrq (s : State) (e p : Bool) : pulse (s.withIrq e p) = (pulse s).withIrq e p := by
  rw [pulse_eq, pulse_eq s]
  rfl

theorem mainStep_of_disabled {k : Result} (h : s.tickEnabled = false) : s.mainStep k = k := by
  simp [State.mainStep, h]

/-- A phase of `XFER` that completes does the same under every setting of the interrupt flags that
enables no `TICK` (43_bus_transfer.md R157, 20_memory.md R53). -/
theorem execXfer_withIrq {e p : Bool} (hep : (e && p) = false) (h : execXfer b s = .next u) :
    execXfer b (s.withIrq e p) = .next (u.withIrq e p) := by
  rw [execXfer, mainStep_of_disabled (s := s.withIrq e p) (by simpa using hep)]
  simp only [withIrq_phase, pulse_withIrq]
  obtain ⟨-, ⟨hp, rfl⟩ | ⟨hp, rfl⟩ | ⟨hp, hd, rfl⟩ | ⟨hp, hd, rfl⟩ | ⟨hp, rfl⟩⟩ := execXfer_next h
  · simp only [hp]; rfl
  · simp only [hp]; rfl
  · have hd' : ((pulse s).withIrq e p).done = true := hd
    simp only [hp, hd', if_true]; rfl
  · have hd' : ((pulse s).withIrq e p).done = false := hd
    simp only [hp, hd', Bool.false_eq_true, if_false, stay_eq]
  · simp only [hp]; rfl

/-- Settles O46: the writers of `IE` give the clauses on opening and closing, the writers of the
Time Base, the line and the transmitter the freeze. -/
theorem disabledSectionFreezesHandlerState : Obligations.DisabledSectionFreezesHandlerState := by
  unfold Obligations.DisabledSectionFreezesHandlerState
  refine ⟨fun s t hs hstep ht => ?_, fun s hs => ⟨fun t hstep => ?_, ?_, fun b u h => ?_⟩⟩
  · obtain ⟨i, hi, hexec⟩ := nextOp_of_step hstep
    simpa [hi] using section_opener (by simpa using hs) hexec ht
  · obtain ⟨i, hi, hexec⟩ := nextOp_of_step hstep
    have hpicked : s.picked.ie = false := by simpa using hs
    have htick : i ≠ .tick := ne_tick_of_ie_false hpicked hexec
    have hkeep := exec_keeps_timeBase_and_line htick hexec
    have htx := exec_keeps_transmitter_or_loads htick hexec
    have hclose := section_closer hpicked hexec
    simp only [picked_millis, picked_acc, picked_txLine] at hkeep
    simp only [picked_busy, picked_bitIdx, picked_shift, picked_phase] at htx hclose
    obtain ⟨hmillis, hacc, hline⟩ := hkeep
    simp only [hi, ne_eq, Option.some.injEq]
    exact ⟨htick, hmillis, hacc, hline, htx, hclose⟩
  · exact ⟨s.latchExpiry, execExpire_next.2 ⟨tickEnabled_of_ie_false hs, rfl⟩, by simp, by simpa⟩
  · exact execXfer_withIrq (e := true) (p := false) rfl h

end Sys2Proof.Machine

/-!
PROOFS. The serial frame on the line (spec 30_encoding.md R60, 42_uart_tx.md R122, R124): what one
`UartStep` does at each position of a frame, and that no other operation moves the line.
-/

namespace Sys2Proof.Machine

open Sys2Proof

variable {s t : State} {b : Byte} {k : Nat}

/-! ## Positions of the frame -/

/-- Positions 1 to 8 carry the data bits, least significant first (R60). -/
theorem frame_getElem?_data (b : Byte) (hpos : 1 ≤ k) (hle : k ≤ 8) :
    (frame b)[k]? = some (b.getLsbD (k - 1)) := by
  interval_cases k <;> rfl

/-- Under coherent widths the stop bit has index 9 (92_eei_decisions.md, OPEN parameters). -/
theorem stopIdx_of_widthsCoherent {c : Config.Params} (h : c.WidthsCoherent) : c.stopIdx = 9 := by
  obtain ⟨hshift, -, hstop, -, -⟩ := h
  omega

/-- A frame in flight stands before one of its ten positions. -/
theorem State.FrameAt.le_nine (h : s.FrameAt b k) : k ≤ 9 := by
  have hstop := stopIdx_of_widthsCoherent h.coherent
  obtain ⟨-, -, -, -, hticks⟩ := h.coherent
  have hin := h.inFrame
  omega

/-- The interrupt's entry leaves a frame where it stands (60_exceptions.md R227). -/
theorem State.FrameAt.interruptEntry (h : s.FrameAt b k) : s.interruptEntry.FrameAt b k :=
  ⟨h.coherent, h.busy, h.inFrame, h.bitIdx, h.shift, h.line⟩

/-- `UartStep` on a frame in flight, position by position: start bit, data bit `k - 1`, stop bit
(R60, R122). -/
theorem State.FrameAt.uartStep_cases (h : s.FrameAt b k) :
    (k = 0 ∧ uartStep s = { s with txLine := false, bitIdx := 1 }) ∨
    (1 ≤ k ∧ k ≤ 8 ∧
      uartStep s = { s with txLine := b.getLsbD (k - 1), shift := b >>> k, bitIdx := k + 1 }) ∨
    (k = 9 ∧ uartStep s = { s with txLine := true, busy := false, bitIdx := 10 }) := by
  have hstop := stopIdx_of_widthsCoherent h.coherent
  have hle := h.le_nine
  have hidx := h.bitIdx
  rcases Machine.uartStep_cases s with
    ⟨hidle, -⟩ | ⟨-, h0, hstart⟩ | ⟨-, hpos, hlt, hdata⟩ | ⟨-, -, hge, hend⟩
  · rw [h.busy] at hidle; cases hidle
  · exact .inl ⟨by omega, by rw [hstart, h0]⟩
  · have hbit : s.shift.getLsbD 0 = b.getLsbD (k - 1) := by
      rw [h.shift, BitVec.getLsbD_ushiftRight, Nat.add_zero]
    have hrest : s.shift >>> 1 = b >>> k := by
      rw [h.shift, ← BitVec.shiftRight_add, Nat.sub_add_cancel (by omega)]
    exact .inr (.inl ⟨by omega, by omega, by rw [hdata, hbit, hrest, hidx]⟩)
  · obtain rfl : k = 9 := by omega
    exact .inr (.inr ⟨rfl, by rw [hend, hidx]⟩)

/-- `UartStep` at index `k` drives position `k` of the frame (R60). -/
theorem State.FrameAt.uartStep_txLine (h : s.FrameAt b k) :
    (frame b)[k]? = some (uartStep s).txLine := by
  rcases h.uartStep_cases with ⟨rfl, hu⟩ | ⟨hpos, hle, hu⟩ | ⟨rfl, hu⟩
  · rw [hu]; rfl
  · rw [hu, frame_getElem?_data b hpos hle]
  · rw [hu]; rfl

/-- The stop bit, and no earlier position, ends the frame (R122). -/
theorem State.FrameAt.uartStep_busy (h : s.FrameAt b k) : (uartStep s).busy = false ↔ k = 9 := by
  rcases h.uartStep_cases with ⟨rfl, hu⟩ | ⟨-, hle, hu⟩ | ⟨rfl, hu⟩
  · simp [hu, h.busy]
  · simp only [hu, h.busy, Bool.true_eq_false, false_iff]; omega
  · simp [hu]

/-! ## Steps of the machine -/

/-- What `TICK` does to the transmitter is `UartStep` (40_tick.md R90). -/
theorem execTick_transmitter (h : execTick s = .next t) :
    t.txLine = (uartStep s.interruptEntry).txLine ∧ t.busy = (uartStep s.interruptEntry).busy := by
  obtain ⟨-, rfl⟩ := execTick_next.1 h
  rw [tickBody_frame]
  exact ⟨rfl, rfl⟩

/-- With no frame in flight `UartStep` does nothing (R123). -/
theorem uartStep_of_idle (h : s.busy = false) : uartStep s = s := by
  simp [uartStep, h]

/-- A step that is no `TICK` leaves the line at its level (R60). -/
theorem step_keeps_txLine (h : step s = .next t) (hne : s.nextOp ≠ some .tick) :
    t.txLine = s.txLine := by
  obtain ⟨i, hi, hexec⟩ := nextOp_of_step h
  have hi' : i ≠ .tick := by rintro rfl; exact hne hi
  obtain ⟨-, -, hline⟩ := exec_keeps_timeBase_and_line hi' hexec
  rw [hline, picked_txLine]

/-- Even a `TICK` leaves an idle line at its level (R123). -/
theorem step_keeps_idle_txLine (hidle : s.busy = false) (h : step s = .next t) :
    t.txLine = s.txLine := by
  by_cases htick : s.nextOp = some .tick
  · obtain ⟨i, hi, hexec⟩ := nextOp_of_step h
    obtain rfl : i = .tick := Option.some.inj (hi.symm.trans htick)
    have hpicked : s.picked.interruptEntry.busy = false := by simpa using hidle
    rw [(execTick_transmitter hexec).1, uartStep_of_idle hpicked, interruptEntry_txLine,
      picked_txLine]
  · exact step_keeps_txLine h htick

/-- Settles O29: `TICK` drives the position its index names, and nothing else moves the line. -/
theorem framePositionsHoldUntilNextTick : Obligations.FramePositionsHoldUntilNextTick := by
  unfold Obligations.FramePositionsHoldUntilNextTick
  refine ⟨fun _ => rfl, fun s t b k hframe htick => ?_, fun _ _ => step_keeps_idle_txLine,
    fun _ _ => step_keeps_txLine⟩
  obtain ⟨hline, hbusy⟩ := execTick_transmitter htick
  rw [hline, hbusy]
  exact ⟨hframe.bitIdx, hframe.interruptEntry.uartStep_txLine, hframe.interruptEntry.uartStep_busy⟩

end Sys2Proof.Machine

/-!
PROOFS. The handler as one step (spec 40_tick.md R90): `TICK` is the body run on the entered state,
what the body reads of the main context, and how far one tick moves the counter.
-/

namespace Sys2Proof.Machine

open Sys2Proof

variable {s : State}

/-! ## What the handler's body does not read -/

/-- `s` with the interrupt enable, the bus registers and the private values of `u`: what R90 says
the handler's body neither reads nor writes. -/
def State.withMainContextOf (s u : State) : State :=
  { s with ie := u.ie, sr := u.sr, done := u.done, cnt := u.cnt, saved := u.saved, v := u.v,
           ret := u.ret }

/-- Every branch of `UartStep` is chosen by the transmitter alone (42_uart_tx.md R122). -/
theorem uartStep_withMainContextOf (s u : State) :
    uartStep (s.withMainContextOf u) = (uartStep s).withMainContextOf u := by
  simp only [uartStep, apply_ite (State.withMainContextOf · u)]
  rfl

/-- `TimeBaseStep` reads the Time Base and the parameters alone (41_timebase.md R101). -/
theorem timeBaseStep_withMainContextOf (s u : State) :
    timeBaseStep (s.withMainContextOf u) = (timeBaseStep s).withMainContextOf u := rfl

/-- The handler's body neither reads nor writes the main context's side (R90). -/
theorem tickBody_withMainContextOf (s u : State) :
    tickBody (s.withMainContextOf u) = (tickBody s).withMainContextOf u := by
  rw [tickBody, uartStep_withMainContextOf, timeBaseStep_withMainContextOf, tickBody]

/-! ## One enabled tick -/

/-- With the interrupt enabled and pending, `TICK` is the body on the entered state (R90, R91). -/
theorem exec_tick_of_enabled (hie : s.ie = true) (hpend : s.pend = true) :
    exec .tick s = .next (tickBody s.interruptEntry) :=
  execTick_next.2 ⟨by simp [State.tickEnabled, hie, hpend], rfl⟩

/-- With no frame in flight the body is the time accumulation alone (R123). -/
theorem tickBody_of_idle (h : s.busy = false) : tickBody s = timeBaseStep s := by
  rw [tickBody, uartStep_of_idle h]

/-- From a bounded accumulator the counter moves by at most one millisecond (R102). -/
theorem timeBaseStep_millis_cases (hc : s.cfg.TimeCoherent) (h : s.AccBounded) :
    (timeBaseStep s).millis = s.millis ∨ (timeBaseStep s).millis = s.millis + 1 := by
  rw [timeBaseStep_bounded hc h]
  split
  · exact .inr rfl
  · exact .inl rfl

/-- When the sum reaches the carry's bound, one whole millisecond goes to the counter (R101). -/
theorem timeBaseStep_of_carry (hc : s.cfg.TimeCoherent) (h : s.AccBounded)
    (hcarry : s.cfg.msUnits + s.cfg.tbCarryStrict.toNat ≤ s.acc.toNat + s.cfg.t0) :
    timeBaseStep s =
      { s with millis := s.millis + 1,
               acc := s.acc + BitVec.ofNat 16 s.cfg.t0 - BitVec.ofNat 16 s.cfg.msUnits } := by
  rw [timeBaseStep_bounded hc h, if_pos]
  rwa [carryTest_iff, add_t0_toNat hc h]

/-- A busy transmitter at index 0 sends the start bit (R122). -/
theorem uartStep_of_start (hbusy : s.busy = true) (hidx : s.bitIdx = 0) :
    uartStep s = { s with txLine := false, bitIdx := 1 } := by
  simp [uartStep, hbusy, hidx]

/-- The spec's worked tick (40_tick.md section 1): the start bit goes out and 927 + 103 units make
one millisecond and leave 30, under either carry test. -/
theorem tickBody_startBit_and_carry (ht0 : s.cfg.t0 = 103) (hms : s.cfg.msUnits = 1000)
    (hbusy : s.busy = true) (hidx : s.bitIdx = 0) (hacc : s.acc = 927) (hmillis : s.millis = 0) :
    tickBody s = { s with txLine := false, bitIdx := 1, acc := 30, millis := 1 } := by
  have hstrict : s.cfg.tbCarryStrict.toNat ≤ 1 := Bool.toNat_le _
  have hnat : s.acc.toNat = 927 := by rw [hacc]; rfl
  have hcoherent : s.cfg.TimeCoherent := by
    simp [Config.Params.TimeCoherent, ht0, hms, Config.ACC_W]
  have hbounded : s.AccBounded := by simp only [State.AccBounded, hnat, hms]; omega
  rw [tickBody_frame, uartStep_of_start hbusy hidx,
    timeBaseStep_of_carry hcoherent hbounded (by omega)]
  simp only [ht0, hms, hacc, hmillis]
  rfl

/-- Settles O14: `TICK` is the body on the entered state, and each clause is a fact about the
body. -/
theorem tickRunsBitClockThenTimeBase : Obligations.TickRunsBitClockThenTimeBase := by
  unfold Obligations.TickRunsBitClockThenTimeBase
  refine ⟨by decide, rfl, fun s hie hpend => ?_⟩
  have hexec := exec_tick_of_enabled hie hpend
  refine ⟨hexec, ?_, fun hidle => ?_, fun hcoherent hbounded => ?_, fun e r d c sv v rt => ?_,
    fun ht0 hms hbusy hidx _ _ hacc hmillis => ?_⟩
  · exact ⟨_, _, _, _, _, _, hexec.trans (congrArg _ (tickBody_frame _))⟩
  · exact ⟨_, _, hexec.trans (congrArg _ (tickBody_of_idle (by simpa using hidle)))⟩
  · refine ⟨_, _, ?_, _, hexec, rfl, rfl⟩
    rw [tickBody_frame]
    exact timeBaseStep_millis_cases (s := s.interruptEntry) hcoherent hbounded
  · exact tickBody_withMainContextOf s
      { s with ie := e, sr := r, done := d, cnt := c, saved := sv, v := v, ret := rt }
  · exact hexec.trans
      (congrArg _
        (tickBody_startBit_and_carry (s := s.interruptEntry) ht0 hms hbusy hidx hacc hmillis))

end Sys2Proof.Machine

/-!
PROOFS. `UartStep` (spec 42_uart_tx.md R122, R123; 20_memory.md R42): what it does at each index,
how it carries a frame forward, and that it is all a `TICK` does to the transmitter.
-/

namespace Sys2Proof.Machine

open Sys2Proof

variable {s t : State} {b : Byte} {k n : Nat}

/-! ## One `UartStep` by its index -/

/-- A busy transmitter at an index 1 to 8 sends the low bit and shifts it out (R122). -/
theorem uartStep_of_data (hc : s.cfg.WidthsCoherent) (hbusy : s.busy = true)
    (hpos : 1 ≤ s.bitIdx) (hle : s.bitIdx ≤ 8) :
    uartStep s = { s with txLine := s.shift.getLsbD 0, shift := s.shift >>> 1,
                          bitIdx := s.bitIdx + 1 } := by
  have hstop := stopIdx_of_widthsCoherent hc
  rcases uartStep_cases s with
    ⟨hidle, -⟩ | ⟨-, h0, -⟩ | ⟨-, -, -, hdata⟩ | ⟨-, -, hge, -⟩
  · rw [hbusy] at hidle; cases hidle
  · omega
  · exact hdata
  · omega

/-- A busy transmitter past the data bits sends the stop bit and is done (R122). -/
theorem uartStep_of_stop (hc : s.cfg.WidthsCoherent) (hbusy : s.busy = true)
    (hge : 9 ≤ s.bitIdx) :
    uartStep s = { s with txLine := true, busy := false, bitIdx := s.bitIdx + 1 } := by
  have hstop := stopIdx_of_widthsCoherent hc
  rcases uartStep_cases s with
    ⟨hidle, -⟩ | ⟨-, h0, -⟩ | ⟨-, -, hlt, -⟩ | ⟨-, -, -, hend⟩
  · rw [hbusy] at hidle; cases hidle
  · omega
  · omega
  · exact hend

/-! ## The ticks a frame still needs -/

/-- A byte is in flight and `n` ticks end its frame: `10 - BITIDX` of them (20_memory.md R54). -/
structure State.TicksLeft (s : State) (n : Nat) : Prop where
  coherent : s.cfg.WidthsCoherent
  busy : s.busy = true
  left : s.bitIdx + n = 10

/-- A busy transmitter at an index up to 9 still needs a tick. -/
theorem ticksLeft_of_busy (hc : s.cfg.WidthsCoherent) (hbusy : s.busy = true)
    (hle : s.bitIdx ≤ 9) : s.TicksLeft (9 - s.bitIdx + 1) :=
  ⟨hc, hbusy, by omega⟩

/-- The last tick a frame needs clears `BUSY`; any other leaves one tick fewer to go (R122). -/
theorem State.TicksLeft.uartStep (h : s.TicksLeft (n + 1)) :
    (n = 0 ∧ (uartStep s).busy = false) ∨ (0 < n ∧ (uartStep s).TicksLeft n) := by
  have hleft := h.left
  by_cases hstart : s.bitIdx = 0
  · rw [uartStep_of_start h.busy hstart]
    exact .inr ⟨by omega, h.coherent, h.busy, by simp only; omega⟩
  · by_cases hdata : s.bitIdx ≤ 8
    · rw [uartStep_of_data h.coherent h.busy (by omega) hdata]
      exact .inr ⟨by omega, h.coherent, h.busy, by simp only; omega⟩
    · rw [uartStep_of_stop h.coherent h.busy (by omega)]
      exact .inl ⟨by omega, rfl⟩

/-- While busy the index stays at most 9 (R122). -/
theorem uartStep_bitIdx_le_nine (hc : s.cfg.WidthsCoherent) (hle : s.bitIdx ≤ 9)
    (hbusy : (uartStep s).busy = true) : (uartStep s).bitIdx ≤ 9 := by
  cases hb : s.busy with
  | false => rwa [uartStep_of_idle hb]
  | true =>
    rcases (ticksLeft_of_busy hc hb hle).uartStep with ⟨-, hidle⟩ | ⟨hpos, hleft⟩
    · rw [hidle] at hbusy; cases hbusy
    · have := hleft.left
      omega

/-! ## A frame carried forward -/

/-- A byte just loaded stands before position 0 of its own frame (R125). -/
theorem frameAt_of_loaded (hc : s.cfg.WidthsCoherent) (hbusy : s.busy = true)
    (hidx : s.bitIdx = 0) : s.FrameAt s.shift 0 where
  coherent := hc
  busy := hbusy
  inFrame := by
    obtain ⟨-, -, -, -, hticks⟩ := hc
    omega
  bitIdx := hidx
  shift := by simp
  line j hj := by omega

/-- Before the stop bit, `UartStep` carries a frame to its next position (R122, R124). -/
theorem State.FrameAt.uartStep (h : s.FrameAt b k) (hk : k < 9) :
    (uartStep s).FrameAt b (k + 1) := by
  have hline : ∀ j, j + 1 = k + 1 → (frame b)[j]? = some (Machine.uartStep s).txLine := by
    intro j hj
    obtain rfl : j = k := by omega
    exact h.uartStep_txLine
  have hstop := stopIdx_of_widthsCoherent h.coherent
  obtain ⟨-, -, -, -, hticks⟩ := h.coherent
  have hin : k + 1 < s.cfg.frameTicks := by omega
  rcases h.uartStep_cases with ⟨rfl, hu⟩ | ⟨-, -, hu⟩ | ⟨rfl, -⟩
  · rw [hu] at hline ⊢
    exact ⟨h.coherent, h.busy, hin, rfl, h.shift, hline⟩
  · rw [hu] at hline ⊢
    exact ⟨h.coherent, h.busy, hin, rfl, rfl, hline⟩
  · omega

/-- Up to the stop bit, `n` steps carry a frame `n` positions on. -/
theorem State.FrameAt.repeatStep (h : s.FrameAt b k) (hn : k + n ≤ 9) :
    (repeatStep Machine.uartStep n s).FrameAt b (k + n) := by
  induction n generalizing s k with
  | zero => exact h
  | succ n ih =>
    rw [show k + (n + 1) = k + 1 + n by omega]
    exact ih (h.uartStep (by omega)) (by omega)

/-- From the load on, the data bits go out least significant first, and no bit the shift fills in is
among them (R42, R122). -/
theorem repeatStep_uartStep_txLine (hc : s.cfg.WidthsCoherent) (hbusy : s.busy = true)
    (hidx : s.bitIdx = 0) (hk : k < 8) :
    (repeatStep uartStep (k + 2) s).txLine = s.shift.getLsbD k := by
  have hframe : (repeatStep uartStep (k + 2) s).FrameAt s.shift (0 + (k + 2)) :=
    (frameAt_of_loaded hc hbusy hidx).repeatStep (by omega)
  have hline := hframe.line (k + 1) (by omega)
  rw [frame_getElem?_data s.shift (by omega) (by omega)] at hline
  exact (Option.some.inj hline).symm

/-! ## The transmitter's part of a `TICK` -/

/-- `UartStep` reads no interrupt flag (R122). -/
theorem uartStep_interruptEntry (s : State) :
    uartStep s.interruptEntry = (uartStep s).interruptEntry := by
  simp only [uartStep, apply_ite State.interruptEntry]
  rfl

/-- What `TICK` does to the transmitter is `UartStep` of the state it is taken in (40_tick.md
R90). -/
theorem execTick_eq_uartStep (h : execTick s = .next t) :
    t.txLine = (uartStep s).txLine ∧ t.shift = (uartStep s).shift ∧
      t.busy = (uartStep s).busy ∧ t.bitIdx = (uartStep s).bitIdx := by
  obtain ⟨-, rfl⟩ := execTick_next.1 h
  rw [tickBody_frame, uartStep_interruptEntry]
  exact ⟨rfl, rfl, rfl, rfl⟩

/-- Settles O15: one clause per branch of `UartStep`, then the frame it carries forward. -/
theorem uartStepDrivesOnePosition : Obligations.UartStepDrivesOnePosition := by
  unfold Obligations.UartStepDrivesOnePosition
  intro s hc
  refine ⟨uartStep_of_start, fun hbusy hpos hle => ⟨uartStep_of_data hc hbusy hpos hle, ?_⟩,
    uartStep_of_stop hc, uartStep_of_idle, uartStep_bitIdx_le_nine hc,
    fun hbusy hidx _ => repeatStep_uartStep_txLine hc hbusy hidx, fun _ => execTick_eq_uartStep⟩
  rw [BitVec.getLsbD_ushiftRight]
  exact BitVec.getLsbD_of_ge _ _ (by omega)

end Sys2Proof.Machine

/-!
PROOFS. The busy-wait of `SENDB` (spec 42_uart_tx.md R125, R128): a frame in flight is drained by
`TICK` alone, along every run, and a poll met with interrupts disabled never leaves its phase.
-/

namespace Sys2Proof.Machine

open Sys2Proof

variable {s t u : State} {i : Instr} {b : Byte} {n : Nat}

/-! ## The poll -/

/-- A poll of a busy transmitter stays where it is (R125). -/
theorem exec_sendb_of_busy (he : s.tickEnabled = false) (hp : s.phase = .p)
    (hbusy : s.busy = true) : exec (.sendb b) s = .next s := by
  have hexec : exec (.sendb b) s = execSendb b s := rfl
  rw [hexec, execSendb, mainStep_of_disabled he]
  simp [hp, hbusy]

/-- A poll of an idle transmitter goes on to the load (R125). -/
theorem exec_sendb_of_idle (he : s.tickEnabled = false) (hp : s.phase = .p)
    (hidle : s.busy = false) : exec (.sendb b) s = .next (s.goto .l) := by
  have hexec : exec (.sendb b) s = execSendb b s := rfl
  rw [hexec, execSendb, mainStep_of_disabled he]
  simp [hp, hidle]

/-! ## A frame in flight along a run -/

/-- No operation writes the parameters (00_scope.md R6). -/
theorem exec_keeps_cfg (h : exec i s = .next t) : t.cfg = s.cfg := by
  cases i with
  | sendb b => rw [execSendb_frame h]
  | xfer b => rw [execXfer_frame h]
  | now => rw [execNow_frame h]
  | irqoff => rw [execIrqoff_frame h]
  | irqrst e => rw [execIrqrst_frame h]
  | cson | csoff | enon | enoff | delay => rw [exec_env_frame (by simp) h]
  | tick =>
    obtain ⟨-, rfl⟩ := execTick_next.1 h
    rw [tickBody_frame, interruptEntry_cfg]
  | expire => rw [execExpire_frame h]

/-- Making the choice leaves a frame where it stands. -/
theorem State.TicksLeft.picked (h : s.TicksLeft n) : s.picked.TicksLeft n :=
  ⟨by simpa using h.coherent, by simpa using h.busy, by simpa using h.left⟩

/-- An operation other than `TICK` leaves a frame in flight where it stands: the load, the one other
writer of the transmitter, finds it idle (R126). -/
theorem State.TicksLeft.exec_of_ne_tick (h : s.TicksLeft n) (hi : i ≠ .tick)
    (hexec : exec i s = .next t) : t.TicksLeft n := by
  have hcfg := exec_keeps_cfg hexec
  rcases exec_keeps_transmitter_or_loads hi hexec with
    ⟨hbusy, hidx, -⟩ | ⟨-, -, -, hidle, -⟩
  · exact ⟨hcfg ▸ h.coherent, hbusy.trans h.busy, hidx ▸ h.left⟩
  · rw [h.busy] at hidle; cases hidle

/-- A `TICK` ends a frame that needs one more tick, and takes one off any other. -/
theorem State.TicksLeft.exec_tick (h : s.TicksLeft (n + 1)) (hexec : exec .tick s = .next t) :
    (n = 0 ∧ t.busy = false) ∨ (0 < n ∧ t.TicksLeft n) := by
  obtain ⟨-, -, hbusy, hidx⟩ := execTick_eq_uartStep hexec
  have hcfg := exec_keeps_cfg hexec
  rcases h.uartStep with ⟨hn, hidle⟩ | ⟨hn, hleft⟩
  · exact .inl ⟨hn, hbusy.trans hidle⟩
  · exact .inr ⟨hn, hcfg ▸ h.coherent, hbusy.trans hleft.busy, hidx ▸ hleft.left⟩

/-- Only a `TICK` clears `BUSY` (R128). -/
theorem nextOp_of_busy_cleared (h : step s = .next t) (hbusy : s.busy = true)
    (hidle : t.busy = false) : s.nextOp = some .tick := by
  obtain ⟨i, hi, hexec⟩ := nextOp_of_step h
  by_contra hne
  have hi' : i ≠ .tick := by rintro rfl; exact hne hi
  have hpicked : s.picked.busy = true := by simpa using hbusy
  rcases exec_keeps_transmitter_or_loads hi' hexec with
    ⟨hkeep, -, -⟩ | ⟨-, -, -, hidle', -⟩
  · rw [hkeep, hpicked] at hidle; cases hidle
  · rw [hpicked] at hidle'; cases hidle'

/-- Along every run with the ticks a frame needs, those ticks clear `BUSY` (R54, R128). -/
theorem State.TicksLeft.run_clears_busy {k : Nat} (h : s.TicksLeft (k + 1))
    (hrun : run n s = .next t) (hcount : k + 1 ≤ (runOps n s).count .tick) :
    ∃ m u, m ≤ n ∧ run m s = .next u ∧ (runOps m s).count .tick ≤ k + 1 ∧ u.busy = false := by
  induction n generalizing s k with
  | zero => simp [runOps] at hcount
  | succ n ih =>
    obtain ⟨w, hstep, hrest⟩ := run_succ_next.1 hrun
    obtain ⟨i, hi, hexec⟩ := nextOp_of_step hstep
    have hops : ∀ m, runOps (m + 1) s = i :: runOps m w := fun m => runOps_succ hi hstep
    rw [hops] at hcount
    by_cases htick : i = .tick
    · subst htick
      rw [List.count_cons_self] at hcount
      rcases h.picked.exec_tick hexec with ⟨-, hidle⟩ | ⟨hk, hleft⟩
      · refine ⟨1, w, by omega, run_succ_next.2 ⟨w, hstep, rfl⟩, ?_, hidle⟩
        rw [hops, List.count_cons_self]
        simp [runOps]
      · obtain ⟨k, rfl⟩ := Nat.exists_eq_add_one.2 hk
        obtain ⟨m, u, hm, hu, hfew, hidle⟩ := ih hleft hrest (by omega)
        refine ⟨m + 1, u, by omega, run_succ_next.2 ⟨w, hstep, hu⟩, ?_, hidle⟩
        rw [hops, List.count_cons_self]
        omega
    · rw [List.count_cons_of_ne htick] at hcount
      obtain ⟨m, u, hm, hu, hfew, hidle⟩ :=
        ih (h.picked.exec_of_ne_tick htick hexec) hrest hcount
      refine ⟨m + 1, u, by omega, run_succ_next.2 ⟨w, hstep, hu⟩, ?_, hidle⟩
      rwa [hops, List.count_cons_of_ne htick]

/-! ## The hang -/

/-- The main context polls a busy transmitter with interrupts disabled (R128). -/
structure State.PollHangs (s : State) (b : Byte) : Prop where
  accepted : programAccepted s.prog = true
  current : s.current = some (.sendb b)
  phase : s.phase = .p
  busy : s.busy = true
  ie : s.ie = false

/-- `t` is `s` but for the timer's latch, the lost count and the choices made: what a run of polls
and expiries moves. -/
def State.SameButTimer (s t : State) : Prop :=
  t = { s with pend := t.pend, lost := t.lost, sched := t.sched, drawn := t.drawn }

theorem State.SameButTimer.refl (s : State) : s.SameButTimer s := rfl

theorem State.SameButTimer.trans (hst : s.SameButTimer t) (htu : t.SameButTimer u) :
    s.SameButTimer u := by
  unfold State.SameButTimer at *
  rw [htu, hst]

theorem sameButTimer_picked (s : State) : s.SameButTimer s.picked := by
  unfold State.picked State.choiceMade
  split
  · rfl
  · split <;> rfl

theorem sameButTimer_latchExpiry (s : State) : s.SameButTimer s.latchExpiry := rfl

/-- What the timer moves is no part of the hang. -/
theorem State.PollHangs.of_sameButTimer (h : s.PollHangs b) (hsame : s.SameButTimer t) :
    t.PollHangs b := by
  rw [hsame]
  exact ⟨h.accepted, h.current, h.phase, h.busy, h.ie⟩

/-- No `TICK` is enabled in a hang, so the next step is the poll or an expiry, as the schedule
chooses (20_memory.md R50, 40_tick.md R91). -/
theorem State.PollHangs.pick_cases (h : s.PollHangs b) :
    s.pick = .run .expire ∨ s.pick = .run (.sendb b) := by
  have haccepted : programRefusal s.prog = none := by simpa [programAccepted] using h.accepted
  have hpick : s.pick = if s.timerFires then .run .expire else .run (.sendb b) := by
    simp [State.pick, haccepted, tickEnabled_of_ie_false h.ie, h.current]
  rw [hpick]
  split
  · exact .inl rfl
  · exact .inr rfl

/-- Every step of a hang is a next state that only the timer moves, and no `TICK` (R128). -/
theorem State.PollHangs.step (h : s.PollHangs b) :
    ∃ i t, s.nextOp = some i ∧ i ≠ .tick ∧ step s = .next t ∧ s.SameButTimer t := by
  have hpicked := h.of_sameButTimer (sameButTimer_picked s)
  have hdisabled := tickEnabled_of_ie_false hpicked.ie
  rcases h.pick_cases with hpick | hpick
  · exact ⟨_, _, nextOp_of_pick hpick, by simp,
      (step_of_pick hpick).trans (execExpire_next.2 ⟨hdisabled, rfl⟩),
      (sameButTimer_picked s).trans (sameButTimer_latchExpiry s.picked)⟩
  · exact ⟨_, _, nextOp_of_pick hpick, by simp,
      (step_of_pick hpick).trans (exec_sendb_of_busy hdisabled hpicked.phase hpicked.busy),
      sameButTimer_picked s⟩

/-- A hang goes on for any number of steps (R128). -/
theorem State.PollHangs.run (n : Nat) (h : s.PollHangs b) :
    ∃ t, run n s = .next t ∧ s.SameButTimer t ∧ Instr.tick ∉ runOps n s := by
  induction n generalizing s with
  | zero => exact ⟨s, rfl, .refl s, by simp [runOps]⟩
  | succ n ih =>
    obtain ⟨i, w, hi, htick, hstep, hsame⟩ := h.step
    obtain ⟨t, hrun, hsame', hops⟩ := ih (h.of_sameButTimer hsame)
    refine ⟨t, run_succ_next.2 ⟨w, hstep, hrun⟩, hsame.trans hsame', ?_⟩
    rw [runOps_succ hi hstep, List.mem_cons, not_or]
    exact ⟨htick.symm, hops⟩

/-- Settles O34: the poll's two outcomes, the ticks that drain a frame, and the hang, by induction on
the length of the run. -/
theorem disabledInterruptsHangSendb : Obligations.DisabledInterruptsHangSendb := by
  unfold Obligations.DisabledInterruptsHangSendb
  refine ⟨fun _ _ => exec_sendb_of_busy, fun _ _ => exec_sendb_of_idle,
    fun _ _ => nextOp_of_busy_cleared, fun n s t hc hbusy hle hrun hcount => ?_,
    fun n s b haccepted hcurrent hphase hbusy hie => ?_⟩
  · obtain ⟨m, u, hm, hu, hfew, hidle⟩ :=
      (ticksLeft_of_busy hc hbusy hle).run_clears_busy hrun (by omega)
    exact ⟨m, u, hm, hu, by omega, hidle⟩
  · have hhang : s.PollHangs b := ⟨haccepted, hcurrent, hphase, hbusy, hie⟩
    obtain ⟨t, hrun, hsame, hops⟩ := hhang.run n
    have ht := hhang.of_sameButTimer hsame
    refine ⟨t, hrun, ?_, ht.phase, ht.busy, ht.ie, ?_, ?_, ?_, ?_, hops⟩ <;> rw [hsame]

end Sys2Proof.Machine

/-!
PROOFS. Interrupt control (spec 44_irq_control.md R180 to R182): the exact outcome of each writer of
the interrupt enable, what a disabled enable holds back, and `NOW` run without interruption.
-/

namespace Sys2Proof.Machine

open Sys2Proof

variable {s t : State} {i : Instr} {n : Nat}

/-! ## The three writers -/

theorem exec_irqoff_of_zero (he : s.tickEnabled = false) (hp : s.phase = .zero) :
    exec .irqoff s = .next ((s.setRet (.flag s.ie)).setIe false).complete :=
  execIrqoff_next.2 ⟨he, hp, rfl⟩

theorem exec_irqrst_of_zero (e : Bool) (he : s.tickEnabled = false) (hp : s.phase = .zero) :
    exec (.irqrst e) s = .next (s.setIe e).complete :=
  execIrqrst_next.2 ⟨he, hp, rfl⟩

theorem exec_now_eq (s : State) : exec .now s = execNow s := rfl

theorem exec_now_save (he : s.tickEnabled = false) (hp : s.phase = .n1) :
    exec .now s = .next ({ s with saved := s.ie, ie := false }.goto .n2) := by
  rw [exec_now_eq, execNow, mainStep_of_disabled he]
  simp only [hp]

theorem exec_now_read (he : s.tickEnabled = false) (hp : s.phase = .n2) :
    exec .now s = .next ({ s with v := s.millis }.goto .n3) := by
  rw [exec_now_eq, execNow, mainStep_of_disabled he]
  simp only [hp]

theorem exec_now_restore (he : s.tickEnabled = false) (hp : s.phase = .n3) :
    exec .now s = .next ((s.setIe s.saved).setRet (.millis s.v)).complete := by
  rw [exec_now_eq, execNow, mainStep_of_disabled he]
  simp only [hp]

/-! ## `NOW` without interruption -/

theorem execRepeat_succ_of_next (h : exec i s = .next t) :
    execRepeat i (n + 1) s = execRepeat i n t := by
  rw [execRepeat, h]

/-- The three phases of `NOW` in a row return the counter and leave the enable as it was (R105,
R180): the first closes the enable, so no `TICK` is enabled before the other two. -/
theorem execRepeat_now (he : s.tickEnabled = false) (hp : s.phase = .n1) :
    execRepeat .now 3 s =
      .next { s with saved := s.ie, v := s.millis, ret := .millis s.millis, idx := s.idx + 1,
                     phase := arrivalPhase s.prog (s.idx + 1) } := by
  rw [execRepeat_succ_of_next (exec_now_save he hp),
    execRepeat_succ_of_next (exec_now_read (tickEnabled_of_ie_false rfl) rfl),
    execRepeat_succ_of_next (exec_now_restore (tickEnabled_of_ie_false rfl) rfl)]
  rfl

/-! ## What the enable holds back and lets through -/

theorem exec_tick_of_disabled (h : s.tickEnabled = false) :
    exec .tick s = .fault .tickNotEnabled :=
  if_neg (by simp [h])

theorem exec_expire_of_disabled (h : s.tickEnabled = false) :
    exec .expire s = .next s.latchExpiry :=
  execExpire_next.2 ⟨h, rfl⟩

/-- An enabled `TICK` is the next step of an accepted program, before any choice (40_tick.md
R91). -/
theorem nextOp_of_tickEnabled (haccepted : programAccepted s.prog = true)
    (h : s.tickEnabled = true) : s.nextOp = some .tick := by
  have hrefusal : programRefusal s.prog = none := by simpa [programAccepted] using haccepted
  exact nextOp_of_pick (by simp [State.pick, hrefusal, h])

/-- Settles O45: the writers are read off `exec_ie_cases`; from reset, where `IE` is 1, each of the
three does change it; and `NOW` ends with the enable it found. -/
theorem interruptEnableHasThreeWriters : Obligations.InterruptEnableHasThreeWriters := by
  unfold Obligations.InterruptEnableHasThreeWriters
  refine ⟨fun i s t h hne => ?_, ?_, ?_, ?_, fun s he hp => ?_⟩
  · rcases exec_ie_cases h with hkeep | ⟨hi, -⟩ | ⟨e, hi, -⟩ | ⟨hi, -, -⟩ | ⟨hi, -, -⟩
    · exact absurd hkeep hne
    · exact .inr (.inl hi)
    · exact .inr (.inr ⟨e, hi⟩)
    · exact .inl hi
    · exact .inl hi
  · exact ⟨State.reset.goto .n1, _, exec_now_save rfl rfl, by decide⟩
  · exact ⟨State.reset.goto .zero, _, exec_irqoff_of_zero rfl rfl, by decide⟩
  · exact ⟨false, State.reset.goto .zero, _, exec_irqrst_of_zero false rfl rfl, by decide⟩
  · exact ⟨_, execRepeat_now he hp, rfl, rfl⟩

/-- Settles O43: the state after `IRQOFF` has `IE = 0`, so no `TICK` is enabled there, `EXPIRE`
latches and `IRQRST` runs. -/
theorem irqoffSavesAndDisables : Obligations.IrqoffSavesAndDisables := by
  unfold Obligations.IrqoffSavesAndDisables
  refine ⟨by decide, fun s he hp => ?_⟩
  have hclosed : ((s.setRet (.flag s.ie)).setIe false).complete.tickEnabled = false :=
    tickEnabled_of_ie_false rfl
  refine ⟨_, exec_irqoff_of_zero he hp, rfl, hclosed, exec_tick_of_disabled hclosed, ?_,
    fun u hu => exec_tick_of_disabled (tickEnabled_of_ie_false hu), fun hzero => ?_,
    fun hie => ?_⟩
  · exact ⟨_, exec_expire_of_disabled hclosed, rfl, rfl, tickEnabled_of_ie_false rfl⟩
  · exact ⟨_, exec_irqrst_of_zero s.ie hclosed hzero, rfl⟩
  · simp only [State.setRet, State.setIe, State.complete, hie]

/-- Settles O44: the state after `IRQRST` has the enable written, and a `TICK` is enabled there
exactly when the enable is 1 with an expiry pending. -/
theorem irqrstRestoresEnable : Obligations.IrqrstRestoresEnable := by
  unfold Obligations.IrqrstRestoresEnable
  refine ⟨by decide, by decide, fun b s he hp => ?_⟩
  refine ⟨_, exec_irqrst_of_zero b he hp, rfl, fun hb hpend haccepted => ?_, fun hb => ?_⟩
  · exact nextOp_of_tickEnabled haccepted (by simp [State.tickEnabled, hb, hpend])
  · exact ⟨hb, tickEnabled_of_ie_false hb⟩

end Sys2Proof.Machine

/-!
PROOFS. Encodings (spec 30_encoding.md): the fields of a joined word, the decoder as the inverse of
the encoder, the rows of the opcode map, and when a word may stand in a host program.
-/

namespace Sys2Proof.Machine

open Sys2Proof

variable {cw : CmdWord} {i j : Instr}

/-! ## The fields of a word (R65) -/

theorem getLsbD_joinWord (opc imm : Byte) (k : Nat) :
    (joinWord opc imm).getLsbD k = if k < 8 then imm.getLsbD k else opc.getLsbD (k - 8) := by
  rw [show joinWord opc imm = opc ++ imm from rfl, BitVec.getLsbD_append]

@[simp] theorem fieldOpc_joinWord (opc imm : Byte) : fieldOpc (joinWord opc imm) = opc := by
  apply BitVec.eq_of_getLsbD_eq
  intro k hk
  rw [fieldOpc, BitVec.getLsbD_extractLsb', getLsbD_joinWord]
  simp [hk]

@[simp] theorem fieldImm8_joinWord (opc imm : Byte) : fieldImm8 (joinWord opc imm) = imm := by
  apply BitVec.eq_of_getLsbD_eq
  intro k hk
  rw [fieldImm8, BitVec.getLsbD_extractLsb', getLsbD_joinWord]
  simp [hk]

/-- A word is its two fields. -/
@[simp] theorem joinWord_fields (cw : CmdWord) : joinWord (fieldOpc cw) (fieldImm8 cw) = cw := by
  apply BitVec.eq_of_getLsbD_eq
  intro k hk
  rw [getLsbD_joinWord]
  split
  · next hlow => simp [fieldImm8, hlow]
  · next hhigh =>
    have hk' : k - 8 < 8 := by omega
    rw [fieldOpc, BitVec.getLsbD_extractLsb', Nat.add_sub_cancel' (Nat.le_of_not_lt hhigh)]
    simp [hk']

theorem joinWord_inj {a b c d : Byte} : joinWord a b = joinWord c d ↔ a = c ∧ b = d := by
  refine ⟨fun h => ⟨?_, ?_⟩, by rintro ⟨rfl, rfl⟩; rfl⟩
  · simpa using congrArg fieldOpc h
  · simpa using congrArg fieldImm8 h

@[simp] theorem fieldOpc_encode (i : Instr) : fieldOpc (encode i) = i.opc := by simp [encode]

@[simp] theorem fieldImm8_encode (i : Instr) : fieldImm8 (encode i) = i.imm8 := by simp [encode]

theorem eq_encode_iff : cw = encode i ↔ fieldOpc cw = i.opc ∧ fieldImm8 cw = i.imm8 := by
  rw [encode, ← joinWord_inj, joinWord_fields]

/-! ## The decoder by formats (R65, R68) -/

theorem decodeBare_eq_ok : decodeBare j cw = .ok i ↔ fieldImm8 cw = 0 ∧ i = j := by
  unfold decodeBare
  split
  · next hzero => simp [hzero, eq_comm]
  · next hzero => exact ⟨fun h => (nomatch h), fun h => absurd h.1 hzero⟩

/-- An operand field with bits 7 to 1 zero spells its bit 0. -/
theorem imm8_eq_flagImm8 (b : Byte) (s : Bool) :
    b = flagImm8 s ↔ b.extractLsb' 1 7 = 0 ∧ b.getLsbD 0 = s := by
  revert b s; decide

theorem fieldFlagZero_eq (cw : CmdWord) : fieldFlagZero cw = (fieldImm8 cw).extractLsb' 1 7 := by
  apply BitVec.eq_of_getLsbD_eq
  intro k hk
  simp [fieldFlagZero, fieldImm8, hk]

theorem fieldFlag_eq (cw : CmdWord) : fieldFlag cw = (fieldImm8 cw).getLsbD 0 := by
  simp [fieldFlag, fieldImm8]

theorem decodeFlag_eq_ok {mk : Bool → Instr} :
    decodeFlag mk cw = .ok i ↔ ∃ s, fieldImm8 cw = flagImm8 s ∧ i = mk s := by
  simp only [imm8_eq_flagImm8, ← fieldFlagZero_eq, ← fieldFlag_eq, decodeFlag]
  split
  · next hzero => simp [hzero, eq_comm]
  · next hzero => exact ⟨fun h => (nomatch h), fun ⟨_, h, _⟩ => absurd h.1 hzero⟩

/-- The decoder inverts the encoder (R67). -/
@[simp] theorem decode_encode (i : Instr) : decode (encode i) = .ok i := by
  cases i with
  | sendb b | xfer b => simp [decode, Instr.opc, Instr.imm8]
  | irqrst s =>
    have hflag : decodeFlag .irqrst (encode (.irqrst s)) = .ok (.irqrst s) :=
      decodeFlag_eq_ok.2 ⟨s, by simp [Instr.imm8], rfl⟩
    simp [decode, Instr.opc, hflag]
  | now | irqoff | cson | csoff | enon | enoff | delay | tick | expire => decide

theorem eq_encode_of_decodeBare (h : decodeBare j cw = .ok i)
    (hopc : fieldOpc cw = j.opc) (hbare : j.imm8 = 0) : cw = encode i := by
  obtain ⟨himm, rfl⟩ := decodeBare_eq_ok.1 h
  exact eq_encode_iff.2 ⟨hopc, himm.trans hbare.symm⟩

/-- The encoder inverts the decoder: no bit of an accepted word is dropped (R65, R67). -/
theorem eq_encode_of_decode (h : decode cw = .ok i) : cw = encode i := by
  unfold decode at h
  simp only [ite_eq_iff] at h
  rcases h with ⟨hsendb, h⟩ | ⟨-, ⟨hxfer, h⟩ | ⟨-, ⟨hnow, h⟩ | ⟨-, ⟨hirqoff, h⟩ |
    ⟨-, ⟨hirqrst, h⟩ | ⟨-, ⟨hcson, h⟩ | ⟨-, ⟨hcsoff, h⟩ | ⟨-, ⟨henon, h⟩ | ⟨-, ⟨henoff, h⟩ |
    ⟨-, ⟨hdelay, h⟩ | ⟨-, ⟨htick, h⟩ | ⟨-, ⟨hexpire, h⟩ | ⟨-, h⟩⟩⟩⟩⟩⟩⟩⟩⟩⟩⟩⟩
  · cases h; exact eq_encode_iff.2 ⟨hsendb, rfl⟩
  · cases h; exact eq_encode_iff.2 ⟨hxfer, rfl⟩
  · exact eq_encode_of_decodeBare h hnow rfl
  · exact eq_encode_of_decodeBare h hirqoff rfl
  · obtain ⟨s, himm, rfl⟩ := decodeFlag_eq_ok.1 h
    exact eq_encode_iff.2 ⟨hirqrst, himm⟩
  · exact eq_encode_of_decodeBare h hcson rfl
  · exact eq_encode_of_decodeBare h hcsoff rfl
  · exact eq_encode_of_decodeBare h henon rfl
  · exact eq_encode_of_decodeBare h henoff rfl
  · exact eq_encode_of_decodeBare h hdelay rfl
  · exact eq_encode_of_decodeBare h htick rfl
  · exact eq_encode_of_decodeBare h hexpire rfl
  · cases h

theorem decode_eq_ok : decode cw = .ok i ↔ cw = encode i :=
  ⟨eq_encode_of_decode, fun h => h ▸ decode_encode i⟩

/-- Settles O1: one direction is a computation per operation, the other reads the two fields off
each branch of the decoder. -/
theorem decodeExactlyInvertsEncode : Obligations.DecodeExactlyInvertsEncode :=
  fun _ _ => decode_eq_ok

/-! ## The rows of the opcode map (R67) -/

/-- The row of an operation's mnemonic, and no other, accepts its word. -/
theorem accepts_encode (i : Instr) : Laws.RowOfEncoding.Statement i := by
  cases i with
  | sendb b => exact Laws.RowOfEncoding.sendb b
  | xfer b => exact Laws.RowOfEncoding.xfer b
  | now => exact Laws.RowOfEncoding.now
  | irqoff => exact Laws.RowOfEncoding.irqoff
  | irqrst s => exact Laws.RowOfEncoding.irqrst s
  | cson => exact Laws.RowOfEncoding.cson
  | csoff => exact Laws.RowOfEncoding.csoff
  | enon => exact Laws.RowOfEncoding.enon
  | enoff => exact Laws.RowOfEncoding.enoff
  | delay => exact Laws.RowOfEncoding.delay
  | tick => exact Laws.RowOfEncoding.tick
  | expire => exact Laws.RowOfEncoding.expire

theorem joinWord_and (a b c d : Byte) :
    joinWord a b &&& joinWord c d = joinWord (a &&& c) (b &&& d) := by
  apply BitVec.eq_of_getLsbD_eq
  intro k hk
  simp only [BitVec.getLsbD_and, getLsbD_joinWord]
  split <;> rfl

/-- A row's test, field by field: every mask covers the whole operation code. -/
theorem accepts_fields {m : String} {mask value opc : Byte}
    (h : (OpcodeRow.mk m (joinWord 0xFF mask) (joinWord opc value)).accepts cw = true) :
    fieldOpc cw = opc ∧ fieldImm8 cw &&& mask = value := by
  have hmask : cw &&& joinWord 0xFF mask = joinWord opc value := by
    simpa [OpcodeRow.accepts] using h
  rw [← joinWord_fields cw, joinWord_and, joinWord_inj] at hmask
  obtain ⟨hopc, himm⟩ := hmask
  exact ⟨by rw [← hopc]; exact (BitVec.and_allOnes (w := 8)).symm, himm⟩

/-- A row of a bare format accepts its operation's word only. -/
theorem eq_encode_of_accepts_bare {m : String} (hbare : j.imm8 = 0)
    (h : (OpcodeRow.mk m (joinWord 0xFF 0xFF) (joinWord j.opc 0)).accepts cw = true) :
    cw = encode j := by
  obtain ⟨hopc, himm⟩ := accepts_fields h
  rw [eq_encode_iff, hbare]
  exact ⟨hopc, by rw [← himm]; exact (BitVec.and_allOnes (w := 8)).symm⟩

theorem flagImm8_of_masked (b : Byte) (h : b &&& 0xFE = 0) : b = flagImm8 (b.getLsbD 0) := by
  revert b; decide

/-- A word that some row accepts spells an operation (R67, R72). -/
theorem exists_encode_of_accepts {r : OpcodeRow} (hr : r ∈ opcodeMap) (h : r.accepts cw = true) :
    ∃ i, cw = encode i := by
  simp only [opcodeMap, List.mem_cons, List.not_mem_nil, or_false] at hr
  rcases hr with rfl | rfl | rfl | rfl | rfl | rfl | rfl | rfl | rfl | rfl | rfl | rfl
  · exact ⟨.sendb (fieldImm8 cw),
      eq_encode_iff.2 ⟨(accepts_fields (mask := 0) (value := 0) (opc := 0x01) h).1, rfl⟩⟩
  · exact ⟨.xfer (fieldImm8 cw),
      eq_encode_iff.2 ⟨(accepts_fields (mask := 0) (value := 0) (opc := 0x02) h).1, rfl⟩⟩
  · exact ⟨.now, eq_encode_of_accepts_bare rfl h⟩
  · exact ⟨.irqoff, eq_encode_of_accepts_bare rfl h⟩
  · obtain ⟨hopc, himm⟩ := accepts_fields (mask := 0xFE) (value := 0) (opc := 0x05) h
    exact ⟨.irqrst _, eq_encode_iff.2 ⟨hopc, flagImm8_of_masked _ himm⟩⟩
  · exact ⟨.cson, eq_encode_of_accepts_bare rfl h⟩
  · exact ⟨.csoff, eq_encode_of_accepts_bare rfl h⟩
  · exact ⟨.enon, eq_encode_of_accepts_bare rfl h⟩
  · exact ⟨.enoff, eq_encode_of_accepts_bare rfl h⟩
  · exact ⟨.delay, eq_encode_of_accepts_bare rfl h⟩
  · exact ⟨.tick, eq_encode_of_accepts_bare rfl h⟩
  · exact ⟨.expire, eq_encode_of_accepts_bare rfl h⟩

/-- Settles O2: a decoded word is its operation's word, and a word some row accepts is one too, so
it decodes. -/
theorem decoderFollowsMasksAndMatches : Obligations.DecoderFollowsMasksAndMatches := by
  unfold Obligations.DecoderFollowsMasksAndMatches
  intro w
  split
  · next i hi =>
    intro r hr
    rw [decode_eq_ok.1 hi, accepts_encode i r hr, beq_iff_eq]
  · next e he =>
    intro r hr
    by_contra hacc
    obtain ⟨i, rfl⟩ := exists_encode_of_accepts hr (by simpa using hacc)
    rw [decode_encode] at he
    cases he

/-- Settles O3: twelve fixed words. -/
theorem tabledWordsDecode : Obligations.TabledWordsDecode := by
  unfold Obligations.TabledWordsDecode
  decide

/-! ## Host programs (R69, R72) -/

@[simp] theorem decode?_encode (i : Instr) : decode? (encode i) = some i := by simp [decode?]

/-- A word may stand in a host program exactly if it spells an operation that is no event. -/
theorem wordRefusal_eq_none :
    wordRefusal cw = none ↔ ∃ i, decode cw = .ok i ∧ i.isEvent = false := by
  unfold wordRefusal
  split
  · next e he => simp [he]
  · next i hi => simp [hi, Instr.hostWellFormed]

theorem programRefusal_eq_none {p : List CmdWord} :
    programRefusal p = none ↔ ∀ w ∈ p, wordRefusal w = none := List.findSome?_eq_none_iff

theorem programAccepted_iff {p : List CmdWord} :
    programAccepted p = true ↔ programRefusal p = none := by simp [programAccepted]

/-- The words of a host program in abstract syntax are accepted. -/
theorem programAccepted_assemble {p : List Instr} (h : ∀ i ∈ p, i.isEvent = false) :
    programAccepted (assemble p) = true := by
  rw [programAccepted_iff, programRefusal_eq_none]
  intro w hw
  obtain ⟨i, hi, rfl⟩ := List.mem_map.1 hw
  exact wordRefusal_eq_none.2 ⟨i, decode_encode i, h i hi⟩

/-- Settles O4: the expansion is a map, and each word decodes to its command. -/
theorem stringExpandsToOneSendbPerByte : Obligations.StringExpandsToOneSendbPerByte := by
  unfold Obligations.StringExpandsToOneSendbPerByte
  intro s
  refine ⟨fun k => List.getElem?_map .., ?_, programAccepted_assemble fun i hi => ?_⟩
  · simp [assemble, expandSends, Function.comp_def]
  · obtain ⟨b, -, rfl⟩ := List.mem_map.1 hi
    rfl

end Sys2Proof.Machine

/-!
PROOFS. The exact outcome of each operation in each of its phases (spec 40_tick.md R91 to R93,
41_timebase.md R105, 42_uart_tx.md R125, 43_bus_transfer.md R157, 45_sequencer_environment.md R195
to R199).
-/

namespace Sys2Proof.Machine

open Sys2Proof

variable {s t : State} {b : Byte}

/-! ## Events -/

theorem tickEnabled_iff : s.tickEnabled = true ↔ s.ie = true ∧ s.pend = true := by
  simp [State.tickEnabled]

/-- Settles O7: `TICK` completes exactly when enabled, which is `IE` and `PEND` both set. -/
theorem tickCompletesExactlyWhenEnabled : Obligations.TickCompletesExactlyWhenEnabled := by
  unfold Obligations.TickCompletesExactlyWhenEnabled
  intro s
  rw [← tickEnabled_iff]
  refine ⟨⟨fun ⟨t, h⟩ => (execTick_next.1 h).1, fun h => ⟨_, execTick_next.2 ⟨h, rfl⟩⟩⟩,
    fun h => exec_tick_of_disabled (by simpa using h)⟩

theorem exec_expire_of_enabled (h : s.tickEnabled = true) :
    exec .expire s = .fault .expireNotEnabled := if_pos h

/-- Settles O22: with no `TICK` enabled `EXPIRE` latches, and a set latch then means that `IE` is
clear. -/
theorem expireLatchesOneExpiry : Obligations.ExpireLatchesOneExpiry := by
  unfold Obligations.ExpireLatchesOneExpiry
  refine ⟨by decide, rfl, fun s => ⟨fun h => ⟨exec_expire_of_disabled h, fun hpend => ?_⟩,
    exec_expire_of_enabled⟩⟩
  simpa [State.tickEnabled, hpend] using h

/-! ## `NOW` -/

/-- Settles O24: one equation per phase. -/
theorem nowPhasesSaveReadRestore : Obligations.NowPhasesSaveReadRestore := by
  unfold Obligations.NowPhasesSaveReadRestore
  exact fun s he => ⟨exec_now_save he, exec_now_read he, exec_now_restore he⟩

/-- Settles O25: the three phases in a row. -/
theorem nowReturnsCounterAndRestoresEnable : Obligations.NowReturnsCounterAndRestoresEnable :=
  fun _ => execRepeat_now

/-! ## `SENDB` -/

theorem exec_sendb_load (he : s.tickEnabled = false) (hp : s.phase = .l)
    (hidle : s.busy = false) : exec (.sendb b) s = .next (s.loadTx b).complete := by
  have hexec : exec (.sendb b) s = execSendb b s := rfl
  rw [hexec, execSendb, mainStep_of_disabled he]
  simp [hp, hidle]

theorem exec_sendb_overrun (he : s.tickEnabled = false) (hp : s.phase = .l)
    (hbusy : s.busy = true) : exec (.sendb b) s = .fault .txOverrun := by
  have hexec : exec (.sendb b) s = execSendb b s := rfl
  rw [hexec, execSendb, mainStep_of_disabled he]
  simp [hp, hbusy]

/-- Settles O27: the poll's two outcomes and the load's two. -/
theorem sendbPollsThenLoads : Obligations.SendbPollsThenLoads := by
  unfold Obligations.SendbPollsThenLoads
  exact fun b s he => ⟨exec_sendb_of_busy he, exec_sendb_of_idle he, exec_sendb_load he,
    exec_sendb_overrun he⟩

/-! ## `XFER` -/

@[simp] theorem pulse_phase (s : State) : (pulse s).phase = s.phase := by rw [pulse_frame]

theorem exec_xfer_load (he : s.tickEnabled = false) (hp : s.phase = .x1) :
    exec (.xfer b) s = .next ({ s with sr := b }.goto .x2) := by
  have hexec : exec (.xfer b) s = execXfer b s := rfl
  rw [hexec, execXfer, mainStep_of_disabled he]
  simp only [hp]

theorem exec_xfer_clear (he : s.tickEnabled = false) (hp : s.phase = .x2) :
    exec (.xfer b) s = .next ({ s with done := false, cnt := 0 }.goto .x3) := by
  have hexec : exec (.xfer b) s = execXfer b s := rfl
  rw [hexec, execXfer, mainStep_of_disabled he]
  simp only [hp]

/-- The pulse that sets the flag leaves the loop, any other stays in it (R157). -/
theorem exec_xfer_pulse (he : s.tickEnabled = false) (hp : s.phase = .x3) :
    exec (.xfer b) s = .next (if (pulse s).done then (pulse s).goto .x4 else pulse s) := by
  have hexec : exec (.xfer b) s = execXfer b s := rfl
  rw [hexec, execXfer, mainStep_of_disabled he]
  simp only [hp, stay_eq]

theorem exec_xfer_return (he : s.tickEnabled = false) (hp : s.phase = .x4) :
    exec (.xfer b) s = .next (s.setRet (.byte s.sr)).complete := by
  have hexec : exec (.xfer b) s = execXfer b s := rfl
  rw [hexec, execXfer, mainStep_of_disabled he]
  simp only [hp]

theorem goto_of_phase {ph : Phase} (h : s.phase = ph) : s.goto ph = s := by
  subst h; rfl

/-- Settles O35: one equation per phase; a pulse that stays is already in the pulse phase. -/
theorem xferLoadsClearsPulsesReturns : Obligations.XferLoadsClearsPulsesReturns := by
  unfold Obligations.XferLoadsClearsPulsesReturns
  refine fun b s he => ⟨exec_xfer_load he, exec_xfer_clear he, fun hp => ?_, exec_xfer_return he⟩
  rw [exec_xfer_pulse he hp]
  split
  · rfl
  · exact congrArg _ (goto_of_phase (by simpa using hp)).symm

/-! ## The environment -/

theorem exec_cson_of_zero (he : s.tickEnabled = false) (hp : s.phase = .zero) :
    exec .cson s = .next (s.driveCs true).complete := execCson_next.2 ⟨he, hp, rfl⟩

theorem exec_csoff_of_zero (he : s.tickEnabled = false) (hp : s.phase = .zero) :
    exec .csoff s = .next (s.driveCs false).complete := execCsoff_next.2 ⟨he, hp, rfl⟩

theorem exec_enon_of_zero (he : s.tickEnabled = false) (hp : s.phase = .zero) :
    exec .enon s = .next (s.driveEn true).complete := execEnon_next.2 ⟨he, hp, rfl⟩

theorem exec_enoff_of_zero (he : s.tickEnabled = false) (hp : s.phase = .zero) :
    exec .enoff s = .next (s.driveEn false).complete := execEnoff_next.2 ⟨he, hp, rfl⟩

theorem exec_delay_of_zero (he : s.tickEnabled = false) (hp : s.phase = .zero) :
    exec .delay s = .next s.complete := execDelay_next.2 ⟨he, hp, rfl⟩

/-- Only the register-model double heeds chip-select (R203). -/
theorem periphAfterSelect_of_noDouble (h : ∀ m, s.periph ≠ .regModel m) (level : Bool) :
    s.periphAfterSelect level = s.periph := by
  unfold State.periphAfterSelect
  split
  · next m hm => exact absurd hm (h m)
  · rfl

/-- Only the register-model double heeds the enable line (R203). -/
theorem periphAfterEnable_of_noDouble (h : ∀ m, s.periph ≠ .regModel m) (level : Bool) :
    s.periphAfterEnable level = s.periph := by
  unfold State.periphAfterEnable
  split
  · next m hm => exact absurd hm (h m)
  · rfl

/-- Settles O47: one outcome per command, and who heeds the line. -/
theorem chipSelectOperationsDriveCs : Obligations.ChipSelectOperationsDriveCs := by
  unfold Obligations.ChipSelectOperationsDriveCs
  exact ⟨by decide, by decide, fun s he hp => ⟨exec_cson_of_zero he hp, exec_csoff_of_zero he hp,
    periphAfterSelect_of_noDouble⟩⟩

/-- Settles O48: one outcome per command, and who heeds the line. -/
theorem enableOperationsDriveEn : Obligations.EnableOperationsDriveEn := by
  unfold Obligations.EnableOperationsDriveEn
  exact ⟨by decide, by decide, fun s he hp => ⟨exec_enon_of_zero he hp, exec_enoff_of_zero he hp,
    periphAfterEnable_of_noDouble⟩⟩

/-- Settles O49: the one outcome of a single-phase command without effect. -/
theorem delayOnlyAdvancesPosition : Obligations.DelayOnlyAdvancesPosition := by
  unfold Obligations.DelayOnlyAdvancesPosition
  exact ⟨by decide, fun s => exec_delay_of_zero⟩

end Sys2Proof.Machine

/-!
PROOFS. The choice of the next step (spec 20_memory.md R50, 40_tick.md R91, R92) and the refusal of
a program (30_encoding.md R72): which operation is picked where, that a picked operation completes,
and that no operation refuses.
-/

namespace Sys2Proof.Machine

open Sys2Proof

variable {s t : State} {i : Instr}

/-! ## What is picked -/

theorem pick_of_tickEnabled (hprog : programAccepted s.prog = true) (h : s.tickEnabled = true) :
    s.pick = .run .tick := by
  simp [State.pick, programAccepted_iff.1 hprog, h]

theorem pick_of_finished (hprog : programAccepted s.prog = true) (h : s.tickEnabled = false)
    (hcur : s.current = none) : s.pick = .run .expire := by
  simp [State.pick, programAccepted_iff.1 hprog, h, hcur]

theorem pick_of_timerFires (hprog : programAccepted s.prog = true) (h : s.tickEnabled = false)
    (hfires : s.timerFires = true) : s.pick = .run .expire := by
  simp only [State.pick, programAccepted_iff.1 hprog, h, hfires]
  cases s.current <;> rfl

theorem pick_of_main (hprog : programAccepted s.prog = true) (h : s.tickEnabled = false)
    (hfires : s.timerFires = false) (hcur : s.current = some i) : s.pick = .run i := by
  simp [State.pick, programAccepted_iff.1 hprog, h, hfires, hcur]

/-- An accepted program always has a next operation. -/
theorem exists_pick (hprog : programAccepted s.prog = true) : ∃ i, s.pick = .run i := by
  cases h : s.tickEnabled with
  | true => exact ⟨_, pick_of_tickEnabled hprog h⟩
  | false =>
    cases hcur : s.current with
    | none => exact ⟨_, pick_of_finished hprog h hcur⟩
    | some i =>
      cases hfires : s.timerFires with
      | true => exact ⟨_, pick_of_timerFires hprog h hfires⟩
      | false => exact ⟨_, pick_of_main hprog h hfires hcur⟩

theorem picked_of_tickEnabled (h : s.tickEnabled = true) : s.picked = s := if_pos h

theorem picked_of_not_tickEnabled (h : s.tickEnabled = false) : s.picked = s.choiceMade :=
  if_neg (by simp [h])

/-- A finished main context stands at no command (10_state.md R31). -/
theorem current_of_finished (h : s.prog.length ≤ s.idx) : s.current = none := by
  simp [State.current, commandAt, h]

theorem current_of_getElem? {w : CmdWord} (hw : s.prog[s.idx]? = some w)
    (hd : decode w = .ok i) : s.current = some i := by
  simp [State.current, commandAt, hw, decode?, hd]

/-- Settles O5: the word spells the current command, which the choice falls on. -/
theorem stepRunsDecodedCommand : Obligations.StepRunsDecodedCommand := by
  unfold Obligations.StepRunsDecodedCommand
  intro s w i hprog hw hd he hfires
  have hcur := current_of_getElem? hw hd
  refine ⟨commandAt_hostWellFormed (programAccepted_iff.1 hprog) hcur, ?_⟩
  rw [step_of_pick (pick_of_main hprog he hfires hcur), picked_of_not_tickEnabled he]

/-- Settles O8: both cases pick `EXPIRE`. -/
theorem timerMovesWhenChosenOrAlone : Obligations.TimerMovesWhenChosenOrAlone := by
  unfold Obligations.TimerMovesWhenChosenOrAlone
  intro s hprog he hcase
  have hpick : s.pick = .run .expire := by
    rcases hcase with hfires | hdone
    · exact pick_of_timerFires hprog he hfires
    · exact pick_of_finished hprog he (current_of_finished hdone)
  rw [step_of_pick hpick, picked_of_not_tickEnabled he]

/-! ## An enabled `TICK` -/

theorem mainStep_of_enabled {k : Result} (h : s.tickEnabled = true) :
    s.mainStep k = .fault .mainNotEnabled := if_pos h

/-- While a `TICK` is enabled no host command has a step (R91). -/
theorem exec_host_of_enabled (h : s.tickEnabled = true) (hi : i.hostWellFormed = true) :
    exec i s = .fault .mainNotEnabled := by
  cases i with
  | sendb b | xfer b | irqrst b => exact mainStep_of_enabled h
  | now | irqoff | cson | csoff | enon | enoff | delay => exact mainStep_of_enabled h
  | tick | expire => cases hi

@[simp] theorem tickBody_pend (s : State) : (tickBody s).pend = s.pend := by rw [tickBody_frame]

@[simp] theorem tickBody_idx (s : State) : (tickBody s).idx = s.idx := by rw [tickBody_frame]

@[simp] theorem tickBody_phase (s : State) : (tickBody s).phase = s.phase := by rw [tickBody_frame]

/-- The entry clears the latch and the body leaves it (R90, R91). -/
theorem exec_tick_pend (h : exec .tick s = .next t) : t.pend = false := by
  obtain ⟨-, rfl⟩ := execTick_next.1 h
  simp

/-- Settles O6: the pick asks for an enabled `TICK` first, the other agents have no step there, and
`TICK` clears the latch that enabled it. -/
theorem enabledTickGoesFirst : Obligations.EnabledTickGoesFirst := by
  unfold Obligations.EnabledTickGoesFirst
  intro s h
  refine ⟨fun hprog => ?_, exec_expire_of_enabled h, fun i => exec_host_of_enabled h,
    fun t ht => ?_⟩
  · rw [step_of_pick (pick_of_tickEnabled hprog h), picked_of_tickEnabled h]
  · simp [State.tickEnabled, exec_tick_pend ht]

/-- Settles O9: with `IE` set the latch enables the `TICK`, which leaves the main context frozen. -/
theorem expiryIsServicedAtOnce : Obligations.ExpiryIsServicedAtOnce := by
  unfold Obligations.ExpiryIsServicedAtOnce
  intro s t hie hprog h
  obtain ⟨-, rfl⟩ := execExpire_next.1 h
  have he : s.latchExpiry.tickEnabled = true := by simp [State.tickEnabled, hie]
  have htick : exec .tick s.latchExpiry = .next (tickBody s.latchExpiry.interruptEntry) :=
    execTick_next.2 ⟨he, rfl⟩
  refine ⟨_, ?_, htick, exec_tick_pend htick, by simp, by simp⟩
  rw [step_of_pick (pick_of_tickEnabled (s := s.latchExpiry) hprog he), picked_of_tickEnabled he,
    htick]

/-! ## Refusals -/

/-- Every operation has a meaning: none is refused. -/
theorem exec_ne_refused (r : Refusal) : exec i s ≠ .refused r := by
  have hmain : ∀ k : Result, k ≠ .refused r → s.mainStep k ≠ .refused r := by
    intro k hk
    unfold State.mainStep
    split
    · exact fun h => nomatch h
    · exact hk
  have hsingle : ∀ u : State, s.singlePhase u ≠ .refused r := by
    intro u
    apply hmain
    split <;> exact fun h => nomatch h
  cases i with
  | sendb b =>
    apply hmain
    repeat' split
    all_goals exact fun h => nomatch h
  | xfer b | now =>
    apply hmain
    split <;> exact fun h => nomatch h
  | irqrst b => exact hsingle _
  | irqoff | cson | csoff | enon | enoff | delay => exact hsingle _
  | tick | expire =>
    simp only [exec, execTick, execExpire]
    split <;> exact fun h => nomatch h

/-- A step refuses exactly what the check of the program refuses (R72). -/
theorem step_eq_refused_iff {r : Refusal} :
    step s = .refused r ↔ programRefusal s.prog = some r := by
  cases hprog : programRefusal s.prog with
  | some q => simp [step, State.pick, hprog]
  | none =>
    obtain ⟨i, hi⟩ := exists_pick (programAccepted_iff.2 hprog)
    simp [step_of_pick hi, exec_ne_refused]

/-- A word is refused exactly if it spells nothing or an event. -/
theorem wordRefusal_isSome_iff {w : CmdWord} :
    (∃ r, wordRefusal w = some r) ↔
      (∃ e, decode w = .error e) ∨ ∃ i, decode w = .ok i ∧ i.isEvent = true := by
  unfold wordRefusal
  split
  · next e he => simp [he]
  · next i hi => simp [hi, Instr.hostWellFormed]

/-- Settles O10: a program is refused for its first offending word. -/
theorem programRefusedExactlyForBadWord : Obligations.ProgramRefusedExactlyForBadWord := by
  unfold Obligations.ProgramRefusedExactlyForBadWord
  intro s
  simp only [step_eq_refused_iff, ← wordRefusal_isSome_iff, ← Option.isSome_iff_exists,
    programRefusal, List.findSome?_isSome_iff]

/-! ## Completion -/

/-- In one of its own phases, with no `TICK` enabled and no frame in the way of a load, a host
command completes a step (R31, R126). -/
theorem exec_completes (he : s.tickEnabled = false) (hp : s.phase ∈ phasesOf i)
    (hload : s.LoadIsSafe) : ∃ t, exec i s = .next t := by
  cases i with
  | sendb b =>
    simp only [phasesOf, List.mem_cons, List.not_mem_nil, or_false] at hp
    rcases hp with hp | hp
    · cases hb : s.busy with
      | true => exact ⟨_, exec_sendb_of_busy he hp hb⟩
      | false => exact ⟨_, exec_sendb_of_idle he hp hb⟩
    · exact ⟨_, exec_sendb_load he hp (hload hp)⟩
  | xfer b =>
    simp only [phasesOf, List.mem_cons, List.not_mem_nil, or_false] at hp
    rcases hp with hp | hp | hp | hp
    · exact ⟨_, exec_xfer_load he hp⟩
    · exact ⟨_, exec_xfer_clear he hp⟩
    · exact ⟨_, exec_xfer_pulse he hp⟩
    · exact ⟨_, exec_xfer_return he hp⟩
  | now =>
    simp only [phasesOf, List.mem_cons, List.not_mem_nil, or_false] at hp
    rcases hp with hp | hp | hp
    · exact ⟨_, exec_now_save he hp⟩
    · exact ⟨_, exec_now_read he hp⟩
    · exact ⟨_, exec_now_restore he hp⟩
  | irqoff => exact ⟨_, exec_irqoff_of_zero he (List.mem_singleton.1 hp)⟩
  | irqrst b => exact ⟨_, exec_irqrst_of_zero b he (List.mem_singleton.1 hp)⟩
  | cson => exact ⟨_, exec_cson_of_zero he (List.mem_singleton.1 hp)⟩
  | csoff => exact ⟨_, exec_csoff_of_zero he (List.mem_singleton.1 hp)⟩
  | enon => exact ⟨_, exec_enon_of_zero he (List.mem_singleton.1 hp)⟩
  | enoff => exact ⟨_, exec_enoff_of_zero he (List.mem_singleton.1 hp)⟩
  | delay => exact ⟨_, exec_delay_of_zero he (List.mem_singleton.1 hp)⟩
  | tick | expire => cases hp

theorem firstPhase_ne_load (i : Instr) : firstPhase i ≠ .l := by
  cases i <;> exact fun h => nomatch h

/-! ## A word placed from outside (log 14) -/

@[simp] theorem decodeTableWord_encode (i : Instr) :
    decodeTableWord 16 (encode i).toNat = some i := by
  have hlt : (encode i).toNat % 2 ^ 16 = (encode i).toNat := Nat.mod_eq_of_lt (encode i).isLt
  rw [decodeTableWord, hlt, if_pos (encode i).isLt, BitVec.ofNat_toNat, BitVec.setWidth_eq,
    decode?_encode]

theorem acceptable_accepted (s : State) : programAccepted s.acceptable.prog = true := by
  unfold State.acceptable
  split
  · assumption
  · rfl

/-- A picked operation that completes after the choice is the next step. -/
theorem nextOp_and_step_of_pick (hpick : s.pick = .run i) (h : ∃ t, exec i s.picked = .next t) :
    s.nextOp = some i ∧ ∃ t, step s = .next t :=
  ⟨nextOp_of_pick hpick, by rwa [step_of_pick hpick]⟩

theorem beforeTick_steps (s : State) :
    s.beforeTick.nextOp = some .tick ∧ ∃ t, step s.beforeTick = .next t := by
  have he : s.beforeTick.tickEnabled = true := rfl
  exact nextOp_and_step_of_pick (pick_of_tickEnabled (acceptable_accepted s) he)
    ⟨_, execTick_next.2 ⟨by simpa using he, rfl⟩⟩

@[simp] theorem acceptable_ie (s : State) : s.acceptable.ie = s.ie := by
  unfold State.acceptable
  split <;> rfl

theorem beforeExpire_steps (s : State) :
    s.beforeExpire.nextOp = some .expire ∧ ∃ t, step s.beforeExpire = .next t := by
  have he : s.beforeExpire.tickEnabled = false := by
    cases hie : s.ie <;> simp [State.tickEnabled, State.beforeExpire, hie]
  exact nextOp_and_step_of_pick (pick_of_timerFires (acceptable_accepted s) he rfl)
    ⟨_, exec_expire_of_disabled (by simpa using he)⟩

theorem commandAt_singleton (i : Instr) : commandAt [encode i] 0 = some i := by
  simp [commandAt]

theorem beforeCommand_steps (s : State) (hi : i.hostWellFormed = true) :
    (s.beforeCommand (encode i)).nextOp = some i ∧
      ∃ t, step (s.beforeCommand (encode i)) = .next t := by
  have he : (s.beforeCommand (encode i)).tickEnabled = false := by
    cases hie : s.ie <;> simp [State.tickEnabled, State.beforeCommand, State.load, hie]
  have hprog : programAccepted (assemble [i]) = true :=
    programAccepted_assemble (by simpa [Instr.hostWellFormed] using hi)
  have hphase : (s.beforeCommand (encode i)).phase = firstPhase i := by
    simp [State.beforeCommand, State.load, arrivalPhase, commandAt_singleton]
  refine nextOp_and_step_of_pick (pick_of_main hprog he rfl (commandAt_singleton i))
    (exec_completes (by simpa using he) ?_ fun hl => ?_)
  · rw [picked_phase, hphase]
    exact firstPhase_mem hi
  · rw [picked_phase, hphase] at hl
    exact absurd hl (firstPhase_ne_load i)

/-- Settles O11: an event is enabled where it is placed, a command stands before its first phase. -/
theorem placedWordIsTheNextOperation : Obligations.PlacedWordIsTheNextOperation := by
  unfold Obligations.PlacedWordIsTheNextOperation
  intro s i
  have hword : BitVec.ofNat 16 ((encode i).toNat % 2 ^ 16) = encode i := by
    rw [Nat.mod_eq_of_lt (encode i).isLt, BitVec.ofNat_toNat, BitVec.setWidth_eq]
  rw [State.withFetchWord, State.placeWord, decodeTableWord_encode, hword]
  cases i with
  | tick => exact beforeTick_steps s
  | expire => exact beforeExpire_steps s
  | sendb b | xfer b | irqrst b => exact beforeCommand_steps s rfl
  | now | irqoff | cson | csoff | enon | enoff | delay => exact beforeCommand_steps s rfl

end Sys2Proof.Machine

/-!
PROOFS. Frames (spec 46_control_and_access.md R214, 10_state.md section 3): what a pulse and the
handler's body leave alone, the write set of each operation, the owners of everything outside the
eleven elements, and what sets and clears each flag.
-/

namespace Sys2Proof.Machine

open Sys2Proof

variable {s t : State} {i : Instr} {b : Byte} {n : Nat}

/-! ## What a pulse and the handler's body leave alone -/

@[simp] theorem pulse_millis (s : State) : (pulse s).millis = s.millis := by rw [pulse_frame]
@[simp] theorem pulse_acc (s : State) : (pulse s).acc = s.acc := by rw [pulse_frame]
@[simp] theorem pulse_busy (s : State) : (pulse s).busy = s.busy := by rw [pulse_frame]
@[simp] theorem pulse_bitIdx (s : State) : (pulse s).bitIdx = s.bitIdx := by rw [pulse_frame]
@[simp] theorem pulse_shift (s : State) : (pulse s).shift = s.shift := by rw [pulse_frame]
@[simp] theorem pulse_txLine (s : State) : (pulse s).txLine = s.txLine := by rw [pulse_frame]
@[simp] theorem pulse_ie (s : State) : (pulse s).ie = s.ie := by rw [pulse_frame]
@[simp] theorem pulse_pend (s : State) : (pulse s).pend = s.pend := by rw [pulse_frame]
@[simp] theorem pulse_cs (s : State) : (pulse s).cs = s.cs := by rw [pulse_frame]
@[simp] theorem pulse_en (s : State) : (pulse s).en = s.en := by rw [pulse_frame]
@[simp] theorem pulse_lost (s : State) : (pulse s).lost = s.lost := by rw [pulse_frame]
@[simp] theorem pulse_prog (s : State) : (pulse s).prog = s.prog := by rw [pulse_frame]
@[simp] theorem pulse_idx (s : State) : (pulse s).idx = s.idx := by rw [pulse_frame]
@[simp] theorem pulse_saved (s : State) : (pulse s).saved = s.saved := by rw [pulse_frame]
@[simp] theorem pulse_v (s : State) : (pulse s).v = s.v := by rw [pulse_frame]
@[simp] theorem pulse_ret (s : State) : (pulse s).ret = s.ret := by rw [pulse_frame]
@[simp] theorem pulse_cfg (s : State) : (pulse s).cfg = s.cfg := by rw [pulse_frame]
@[simp] theorem pulse_sched (s : State) : (pulse s).sched = s.sched := by rw [pulse_frame]
@[simp] theorem pulse_drawn (s : State) : (pulse s).drawn = s.drawn := by rw [pulse_frame]

@[simp] theorem tickBody_ie (s : State) : (tickBody s).ie = s.ie := by rw [tickBody_frame]
@[simp] theorem tickBody_sr (s : State) : (tickBody s).sr = s.sr := by rw [tickBody_frame]
@[simp] theorem tickBody_done (s : State) : (tickBody s).done = s.done := by rw [tickBody_frame]
@[simp] theorem tickBody_cnt (s : State) : (tickBody s).cnt = s.cnt := by rw [tickBody_frame]
@[simp] theorem tickBody_cs (s : State) : (tickBody s).cs = s.cs := by rw [tickBody_frame]
@[simp] theorem tickBody_en (s : State) : (tickBody s).en = s.en := by rw [tickBody_frame]
@[simp] theorem tickBody_lost (s : State) : (tickBody s).lost = s.lost := by rw [tickBody_frame]
@[simp] theorem tickBody_prog (s : State) : (tickBody s).prog = s.prog := by rw [tickBody_frame]
@[simp] theorem tickBody_saved (s : State) : (tickBody s).saved = s.saved := by rw [tickBody_frame]
@[simp] theorem tickBody_v (s : State) : (tickBody s).v = s.v := by rw [tickBody_frame]
@[simp] theorem tickBody_ret (s : State) : (tickBody s).ret = s.ret := by rw [tickBody_frame]
@[simp] theorem tickBody_cfg (s : State) : (tickBody s).cfg = s.cfg := by rw [tickBody_frame]
@[simp] theorem tickBody_periph (s : State) : (tickBody s).periph = s.periph := by
  rw [tickBody_frame]
@[simp] theorem tickBody_seen (s : State) : (tickBody s).seen = s.seen := by rw [tickBody_frame]
@[simp] theorem tickBody_sched (s : State) : (tickBody s).sched = s.sched := by rw [tickBody_frame]
@[simp] theorem tickBody_drawn (s : State) : (tickBody s).drawn = s.drawn := by rw [tickBody_frame]

/-! ## The write sets -/

theorem execTick_frame (h : execTick s = .next t) :
    t = { s with millis := t.millis, acc := t.acc, busy := t.busy, bitIdx := t.bitIdx,
                 shift := t.shift, txLine := t.txLine, pend := t.pend } := by
  obtain ⟨-, rfl⟩ := execTick_next.1 h
  rw [tickBody_frame]
  rfl

/-- Settles O53: the frame of each operation, read element by element. -/
theorem elementsChangeOnlyAsTabled : Obligations.ElementsChangeOnlyAsTabled := by
  unfold Obligations.ElementsChangeOnlyAsTabled
  intro i s t h e he
  cases i with
  | sendb b =>
    rw [execSendb_frame h]
    cases e <;> simp [writeSet, State.read] at he ⊢
  | xfer b =>
    rw [execXfer_frame h]
    cases e <;> simp [writeSet, State.read] at he ⊢
  | now =>
    rw [execNow_frame h]
    cases e <;> simp [writeSet, State.read] at he ⊢
  | irqoff =>
    rw [execIrqoff_frame h]
    cases e <;> simp [writeSet, State.read] at he ⊢
  | irqrst b =>
    rw [execIrqrst_frame h]
    cases e <;> simp [writeSet, State.read] at he ⊢
  | cson | csoff | enon | enoff | delay =>
    rw [exec_env_frame (by simp) h]
    cases e <;> rfl
  | tick =>
    rw [execTick_frame h]
    cases e <;> simp [writeSet, State.read] at he ⊢
  | expire =>
    rw [execExpire_frame h]
    cases e <;> simp [writeSet, State.read] at he ⊢

/-- Settles O54: each outcome of each operation writes its own fields only. -/
theorem onlyOwnersChangeTheRest : Obligations.OnlyOwnersChangeTheRest := by
  unfold Obligations.OnlyOwnersChangeTheRest
  intro i s t h
  cases i with
  | sendb b =>
    obtain ⟨-, ⟨-, -, rfl⟩ | ⟨-, -, rfl⟩ | ⟨-, -, rfl⟩⟩ := execSendb_next h <;>
      simp [Instr.isEvent, Instr.format]
  | xfer b =>
    obtain ⟨-, ⟨-, rfl⟩ | ⟨-, rfl⟩ | ⟨-, -, rfl⟩ | ⟨-, -, rfl⟩ | ⟨-, rfl⟩⟩ := execXfer_next h <;>
      simp [Instr.isEvent, Instr.format]
  | now =>
    obtain ⟨-, ⟨-, rfl⟩ | ⟨-, rfl⟩ | ⟨-, rfl⟩⟩ := execNow_next h <;>
      simp [Instr.isEvent, Instr.format]
  | irqoff =>
    obtain ⟨-, -, rfl⟩ := execIrqoff_next.1 h
    simp [Instr.isEvent, Instr.format]
  | irqrst b =>
    obtain ⟨-, -, rfl⟩ := execIrqrst_next.1 h
    simp [Instr.isEvent, Instr.format]
  | cson =>
    obtain ⟨-, -, rfl⟩ := execCson_next.1 h
    simp [Instr.isEvent, Instr.format]
  | csoff =>
    obtain ⟨-, -, rfl⟩ := execCsoff_next.1 h
    simp [Instr.isEvent, Instr.format]
  | enon =>
    obtain ⟨-, -, rfl⟩ := execEnon_next.1 h
    simp [Instr.isEvent, Instr.format]
  | enoff =>
    obtain ⟨-, -, rfl⟩ := execEnoff_next.1 h
    simp [Instr.isEvent, Instr.format]
  | delay =>
    obtain ⟨-, -, rfl⟩ := execDelay_next.1 h
    simp [Instr.isEvent, Instr.format]
  | tick =>
    obtain ⟨-, rfl⟩ := execTick_next.1 h
    simp
  | expire =>
    obtain ⟨-, rfl⟩ := execExpire_next.1 h
    simp

theorem exec_keeps_prog (h : exec i s = .next t) : t.prog = s.prog :=
  (onlyOwnersChangeTheRest i s t h).1

theorem step_keeps_prog (h : step s = .next t) : t.prog = s.prog := by
  obtain ⟨i, -, hexec⟩ := nextOp_of_step h
  rw [exec_keeps_prog hexec, picked_prog]

theorem step_keeps_cfg (h : step s = .next t) : t.cfg = s.cfg := by
  obtain ⟨i, -, hexec⟩ := nextOp_of_step h
  rw [exec_keeps_cfg hexec, picked_cfg]

/-! ## Along a run -/

/-- What every step keeps, every run keeps. -/
theorem run_keeps {P : State → Prop} (hstep : ∀ s t, P s → step s = .next t → P t) (hs : P s)
    (hrun : run n s = .next t) : P t := by
  induction n generalizing s with
  | zero => cases hrun; exact hs
  | succ n ih =>
    obtain ⟨u, hu, hrest⟩ := run_succ_next.1 hrun
    exact ih (hstep s u hs hu) hrest

/-- Settles O56: no step writes the command list or the parameters. -/
theorem programAndParametersAreImmutable : Obligations.ProgramAndParametersAreImmutable := by
  unfold Obligations.ProgramAndParametersAreImmutable
  intro n s t hrun
  refine run_keeps (P := fun u => u.prog = s.prog ∧ u.cfg = s.cfg) ?_ ⟨rfl, rfl⟩ hrun
  rintro u w ⟨hprog, hcfg⟩ hstep
  exact ⟨(step_keeps_prog hstep).trans hprog, (step_keeps_cfg hstep).trans hcfg⟩

/-! ## The four flags (10_state.md section 3) -/

/-- Every way an operation treats `BUSY`: it leaves it, the load sets it, or the tick at the stop
bit clears it. -/
theorem exec_busy_cases (h : exec i s = .next t) :
    t.busy = s.busy ∨
    (t.busy = true ∧ s.phase = .l ∧ ∃ b, i = .sendb b) ∨
    (t.busy = false ∧ i = .tick ∧ s.cfg.stopIdx ≤ s.bitIdx) := by
  by_cases hi : i = .tick
  · subst hi
    obtain ⟨-, -, hbusy, -⟩ := execTick_eq_uartStep h
    rcases uartStep_cases s with ⟨-, hu⟩ | ⟨-, -, hu⟩ | ⟨-, -, -, hu⟩ | ⟨-, -, hstop, hu⟩ <;>
      rw [hu] at hbusy
    · exact .inl hbusy
    · exact .inl hbusy
    · exact .inl hbusy
    · exact .inr (.inr ⟨hbusy, rfl, hstop⟩)
  · rcases exec_keeps_transmitter_or_loads hi h with ⟨hkeep, -, -⟩ | ⟨b, hb, hp, -, hset, -, -⟩
    · exact .inl hkeep
    · exact .inr (.inl ⟨hset, hp, b, hb⟩)

/-- Every way an operation treats `DONE`: it leaves it, `XFER` clears it before its pulses, or the
last of them sets it (43_bus_transfer.md R153, R157). -/
theorem exec_done_cases (h : exec i s = .next t) :
    t.done = s.done ∨
    (t.done = false ∧ s.phase = .x2 ∧ ∃ b, i = .xfer b) ∨
    (t.done = true ∧ s.phase = .x3 ∧ s.cnt + 1 = s.cfg.busW ∧ ∃ b, i = .xfer b) := by
  have hpulse : (pulse s).done = s.done ∨ ((pulse s).done = true ∧ s.cnt + 1 = s.cfg.busW) := by
    rcases pulse_counts s with ⟨hlast, -, hdone⟩ | ⟨-, -, hdone⟩
    · rw [hdone, doneAfterLastPulse]
      split
      · exact .inl rfl
      · exact .inr ⟨rfl, hlast⟩
    · exact .inl hdone
  cases i with
  | sendb b => left; rw [execSendb_frame h]
  | xfer b =>
    obtain ⟨-, ⟨-, rfl⟩ | ⟨hp, rfl⟩ | ⟨hp, -, rfl⟩ | ⟨hp, -, rfl⟩ | ⟨-, rfl⟩⟩ := execXfer_next h
    · exact .inl rfl
    · exact .inr (.inl ⟨rfl, hp, b, rfl⟩)
    · exact hpulse.imp id fun ⟨hset, hlast⟩ => .inr ⟨hset, hp, hlast, b, rfl⟩
    · exact hpulse.imp id fun ⟨hset, hlast⟩ => .inr ⟨hset, hp, hlast, b, rfl⟩
    · exact .inl rfl
  | now => left; rw [execNow_frame h]
  | irqoff => left; rw [execIrqoff_frame h]
  | irqrst e => left; rw [execIrqrst_frame h]
  | cson | csoff | enon | enoff | delay => left; rw [exec_env_frame (by simp) h]
  | tick => left; rw [execTick_frame h]
  | expire => left; rw [execExpire_frame h]

/-- Every way an operation treats `PEND`: it leaves it, `EXPIRE` sets it, or `TICK` clears it
(40_tick.md R90, R92). -/
theorem exec_pend_cases (h : exec i s = .next t) :
    (t.pend = s.pend ∧ i ≠ .expire ∧ i ≠ .tick) ∨ (t.pend = true ∧ i = .expire) ∨
      (t.pend = false ∧ i = .tick) := by
  cases i with
  | sendb b => left; rw [execSendb_frame h]; simp
  | xfer b => left; rw [execXfer_frame h]; simp
  | now => left; rw [execNow_frame h]; simp
  | irqoff => left; rw [execIrqoff_frame h]; simp
  | irqrst e => left; rw [execIrqrst_frame h]; simp
  | cson | csoff | enon | enoff | delay => left; rw [exec_env_frame (by simp) h]; simp
  | tick => exact .inr (.inr ⟨exec_tick_pend h, rfl⟩)
  | expire =>
    obtain ⟨-, rfl⟩ := execExpire_next.1 h
    exact .inr (.inl ⟨rfl, rfl⟩)

/-- Settles O55: the ways of each flag, with the critical section of `NOW` ruling out that its last
phase clears `IE`. -/
theorem flagsChangeOnlyAsTabled : Obligations.FlagsChangeOnlyAsTabled := by
  unfold Obligations.FlagsChangeOnlyAsTabled
  intro s t hnow hstep
  obtain ⟨i, hi, hexec⟩ := nextOp_of_step hstep
  have hbusy := exec_busy_cases hexec
  have hdone := exec_done_cases hexec
  have hie := exec_ie_cases hexec
  have hpend := exec_pend_cases hexec
  simp only [picked_busy, picked_done, picked_ie, picked_pend, picked_phase, picked_cfg,
    picked_bitIdx, picked_cnt, picked_saved] at hbusy hdone hie hpend
  rw [hi]
  simp only [Option.some.injEq]
  refine ⟨fun hs ht => ?_, fun hs ht => ?_, fun hs ht => ?_, fun hs ht => ?_, fun hs ht => ?_,
    fun hs ht => ?_, fun hs ht => ?_, fun hs ht => ?_⟩
  · simpa [hs, ht] using hbusy
  · simpa [hs, ht] using hbusy
  · simpa [hs, ht] using hdone
  · simpa [hs, ht] using hdone
  · rcases hie with hkeep | ⟨-, hoff⟩ | ⟨e, rfl, he⟩ | ⟨-, -, hoff⟩ | ⟨hi', hp, hsaved⟩
    · simp [hs, ht] at hkeep
    · simp [ht] at hoff
    · left; rw [← he, ht]
    · simp [ht] at hoff
    · exact .inr ⟨hi', hp, by rw [← hsaved, ht]⟩
  · rcases hie with hkeep | ⟨hi', -⟩ | ⟨e, rfl, he⟩ | ⟨hi', hp, -⟩ | ⟨-, hp, -⟩
    · simp [hs, ht] at hkeep
    · exact .inl hi'
    · right; left; rw [← he, ht]
    · exact .inr (.inr ⟨hi', hp⟩)
    · rw [hnow.1 (.inr hp)] at hs; cases hs
  · simpa [hs, ht] using hpend
  · simpa [hs, ht] using hpend

end Sys2Proof.Machine

/-!
PROOFS. The machine's invariant (spec 10_state.md sections 2, 3 and 6): how a step moves the
position, what keeps each part of the invariant, and that an accepted program never stops.
-/

namespace Sys2Proof.Machine

open Sys2Proof

variable {s t : State} {i : Instr} {b : Byte} {n : Nat} {ph : Phase} {p : List CmdWord}

/-! ## The position (10_state.md R31) -/

@[simp] theorem arrivalPhase_ne_l (p : List CmdWord) (n : Nat) : arrivalPhase p n ≠ .l := by
  intro h; simpa [h] using arrivalPhase_first p n

@[simp] theorem arrivalPhase_ne_n2 (p : List CmdWord) (n : Nat) : arrivalPhase p n ≠ .n2 := by
  intro h; simpa [h] using arrivalPhase_first p n

@[simp] theorem arrivalPhase_ne_n3 (p : List CmdWord) (n : Nat) : arrivalPhase p n ≠ .n3 := by
  intro h; simpa [h] using arrivalPhase_first p n

@[simp] theorem arrivalPhase_ne_x3 (p : List CmdWord) (n : Nat) : arrivalPhase p n ≠ .x3 := by
  intro h; simpa [h] using arrivalPhase_first p n

@[simp] theorem arrivalPhase_ne_x4 (p : List CmdWord) (n : Nat) : arrivalPhase p n ≠ .x4 := by
  intro h; simpa [h] using arrivalPhase_first p n

/-- Each phase but `0` belongs to one operation. -/
theorem sendb_of_l_mem (h : Phase.l ∈ phasesOf i) : ∃ b, i = .sendb b := by
  cases i <;> simp [phasesOf] at h ⊢

theorem now_of_inNow_mem (hph : ph = .n2 ∨ ph = .n3) (h : ph ∈ phasesOf i) : i = .now := by
  rcases hph with rfl | rfl <;> cases i <;> simp [phasesOf] at h ⊢

theorem xfer_of_mem (hph : ph = .x3 ∨ ph = .x4) (h : ph ∈ phasesOf i) : ∃ b, i = .xfer b := by
  rcases hph with rfl | rfl <;> cases i <;> simp [phasesOf] at h ⊢

/-- A single-phase command does its step and completes (R31). -/
theorem exec_singlePhase_position (hi : phasesOf i = [.zero]) (h : exec i s = .next t) :
    s.phase = .zero ∧ t.idx = s.idx + 1 ∧ t.phase = arrivalPhase s.prog (s.idx + 1) := by
  cases i with
  | sendb b | xfer b => simp [phasesOf] at hi
  | now | tick | expire => simp [phasesOf] at hi
  | irqoff => obtain ⟨-, hp, rfl⟩ := execIrqoff_next.1 h; exact ⟨hp, rfl, rfl⟩
  | irqrst b => obtain ⟨-, hp, rfl⟩ := execIrqrst_next.1 h; exact ⟨hp, rfl, rfl⟩
  | cson => obtain ⟨-, hp, rfl⟩ := execCson_next.1 h; exact ⟨hp, rfl, rfl⟩
  | csoff => obtain ⟨-, hp, rfl⟩ := execCsoff_next.1 h; exact ⟨hp, rfl, rfl⟩
  | enon => obtain ⟨-, hp, rfl⟩ := execEnon_next.1 h; exact ⟨hp, rfl, rfl⟩
  | enoff => obtain ⟨-, hp, rfl⟩ := execEnoff_next.1 h; exact ⟨hp, rfl, rfl⟩
  | delay => obtain ⟨-, hp, rfl⟩ := execDelay_next.1 h; exact ⟨hp, rfl, rfl⟩

/-- Every way an operation moves the position: an event leaves it, a host command starts in one of
its own phases and either stays within them or completes (R31). -/
theorem exec_position_cases (h : exec i s = .next t) :
    (i.isEvent = true ∧ t.idx = s.idx ∧ t.phase = s.phase) ∨
    (s.phase ∈ phasesOf i ∧
      ((t.idx = s.idx ∧ t.phase ∈ phasesOf i) ∨
       (t.idx = s.idx + 1 ∧ t.phase = arrivalPhase s.prog (s.idx + 1)))) := by
  have hsingle (hi : phasesOf i = [.zero]) : s.phase ∈ phasesOf i ∧
      ((t.idx = s.idx ∧ t.phase ∈ phasesOf i) ∨
       (t.idx = s.idx + 1 ∧ t.phase = arrivalPhase s.prog (s.idx + 1))) := by
    obtain ⟨hp, hidx, hphase⟩ := exec_singlePhase_position hi h
    exact ⟨by simp [hi, hp], .inr ⟨hidx, hphase⟩⟩
  cases i with
  | sendb b =>
    right
    obtain ⟨-, ⟨hp, -, rfl⟩ | ⟨hp, -, rfl⟩ | ⟨hp, -, rfl⟩⟩ := execSendb_next h <;>
      simp [phasesOf, hp]
  | xfer b =>
    right
    obtain ⟨-, ⟨hp, rfl⟩ | ⟨hp, rfl⟩ | ⟨hp, -, rfl⟩ | ⟨hp, -, rfl⟩ | ⟨hp, rfl⟩⟩ :=
      execXfer_next h <;> simp [phasesOf, hp]
  | now =>
    right
    obtain ⟨-, ⟨hp, rfl⟩ | ⟨hp, rfl⟩ | ⟨hp, rfl⟩⟩ := execNow_next h <;> simp [phasesOf, hp]
  | irqrst b => exact .inr (hsingle rfl)
  | irqoff | cson | csoff | enon | enoff | delay => exact .inr (hsingle rfl)
  | tick =>
    obtain ⟨-, rfl⟩ := execTick_next.1 h
    exact .inl ⟨rfl, by simp, by simp⟩
  | expire =>
    obtain ⟨-, rfl⟩ := execExpire_next.1 h
    exact .inl ⟨rfl, rfl, rfl⟩

/-- Arriving at a command of an accepted program, or past its end, is a valid position. -/
theorem positionValid_of_arrival (hprog : programRefusal s.prog = none)
    (hidx : s.idx ≤ s.prog.length) (hp : s.phase = arrivalPhase s.prog s.idx) :
    s.PositionValid := by
  refine ⟨hidx, ?_⟩
  split
  · next i hi =>
    have hat : commandAt s.prog s.idx = some i := hi
    rw [hp, arrivalPhase, hat]
    exact firstPhase_mem (commandAt_hostWellFormed hprog hat)
  · next hi =>
    have hat : commandAt s.prog s.idx = none := hi
    rw [hp, arrivalPhase, hat]

/-- Where a command stands, the position is within the program. -/
theorem idx_lt_of_current (h : s.current = some i) : s.idx < s.prog.length := by
  by_contra hge
  rw [current_of_finished (Nat.le_of_not_lt hge)] at h
  cases h

/-- A position with the same index and a phase that suits the command there is as valid. -/
theorem State.PositionValid.within (h : s.PositionValid) (hprog : t.prog = s.prog)
    (hidx : t.idx = s.idx)
    (hp : t.phase = s.phase ∨ ∃ i, s.current = some i ∧ t.phase ∈ phasesOf i) :
    t.PositionValid := by
  obtain ⟨hle, hmatch⟩ := h
  have hcur : t.current = s.current := by rw [State.current, hprog, hidx, State.current]
  refine ⟨by rw [hprog, hidx]; exact hle, ?_⟩
  rw [hcur]
  rcases hp with hp | ⟨i, hi, hp⟩
  · rwa [hp]
  · rw [hi]; exact hp

/-! ## Each part of the invariant -/

theorem State.ParamsCoherent.exec (hs : s.ParamsCoherent) (h : exec i s = .next t) :
    t.ParamsCoherent := by
  rwa [State.ParamsCoherent, exec_keeps_cfg h]

/-- Only `TICK` moves the accumulator, and it ends below its bound (R14). -/
theorem State.AccBounded.exec (hs : s.AccBounded) (hms : 0 < s.cfg.msUnits)
    (h : exec i s = .next t) : t.AccBounded := by
  by_cases hi : i = .tick
  · subst hi
    obtain ⟨-, rfl⟩ := execTick_next.1 h
    rw [tickBody_frame]
    exact timeBaseStep_accBounded (s := s.interruptEntry) hms
  · obtain ⟨-, hacc, -⟩ := exec_keeps_timeBase_and_line hi h
    rwa [State.AccBounded, hacc, exec_keeps_cfg h]

/-- The index grows below the stop bit, the stop bit ends the frame, and a load starts again at 0
(R16). -/
theorem State.BitIdxBounded.exec (hs : s.BitIdxBounded) (hc : s.cfg.WidthsCoherent)
    (h : exec i s = .next t) : t.BitIdxBounded := by
  obtain ⟨hmax, hstop⟩ := hs
  obtain ⟨hshift, -, hstopIdx, hbitMax, -⟩ := hc
  rw [State.BitIdxBounded, exec_keeps_cfg h]
  by_cases hi : i = .tick
  · subst hi
    obtain ⟨-, -, hbusy, hidx⟩ := execTick_eq_uartStep h
    rw [hbusy, hidx]
    rcases uartStep_cases s with ⟨-, hu⟩ | ⟨-, h0, hu⟩ | ⟨-, -, hlt, hu⟩ | ⟨hb, -, -, hu⟩ <;>
      rw [hu]
    · exact ⟨hmax, hstop⟩
    · simp only; omega
    · simp only; omega
    · have := hstop hb
      exact ⟨by simp only; omega, fun hf => nomatch hf⟩
  · rcases exec_keeps_transmitter_or_loads hi h with
      ⟨hbusy, hidx, -⟩ | ⟨-, -, -, -, -, hidx, -⟩
    · rw [hbusy, hidx]; exact ⟨hmax, hstop⟩
    · rw [hidx]; omega

/-- The line is low only while a frame past its start is in flight, and the load finds it high
(42_uart_tx.md R121, R127). -/
theorem State.LineIdlesHigh.exec (hs : s.LineIdlesHigh) (h : exec i s = .next t) :
    t.LineIdlesHigh := by
  by_cases hi : i = .tick
  · subst hi
    obtain ⟨hline, -, hbusy, hidx⟩ := execTick_eq_uartStep h
    rw [State.LineIdlesHigh, hline, hbusy, hidx]
    rcases uartStep_cases s with ⟨-, hu⟩ | ⟨hb, -, hu⟩ | ⟨hb, -, -, hu⟩ | ⟨-, -, -, hu⟩ <;> rw [hu]
    · exact hs
    · simp [hb]
    · simp [hb]
    · simp
  · obtain ⟨-, -, hline⟩ := exec_keeps_timeBase_and_line hi h
    rw [State.LineIdlesHigh, hline]
    rcases exec_keeps_transmitter_or_loads hi h with
      ⟨hbusy, hidx, -⟩ | ⟨-, -, -, hidle, -, -, -⟩
    · rwa [hbusy, hidx]
    · exact fun _ => hs (.inl hidle)

/-- The load phase is entered by a poll of an idle transmitter, and nothing but the load starts a
frame (42_uart_tx.md R126). -/
theorem State.LoadIsSafe.exec (hs : s.LoadIsSafe) (h : exec i s = .next t) : t.LoadIsSafe := by
  intro ht
  rcases exec_position_cases h with ⟨hevent, -, hphase⟩ | ⟨-, ⟨-, hmem⟩ | ⟨-, harr⟩⟩
  · have hidle := hs (hphase ▸ ht)
    rcases exec_busy_cases h with hkeep | ⟨-, -, b, rfl⟩ | ⟨hclear, -, -⟩
    · rw [hkeep, hidle]
    · cases hevent
    · exact hclear
  · obtain ⟨b, rfl⟩ := sendb_of_l_mem (ht ▸ hmem)
    obtain ⟨-, ⟨hp, -, rfl⟩ | ⟨-, hidle, rfl⟩ | ⟨-, -, rfl⟩⟩ := execSendb_next h
    · rw [hp] at ht; cases ht
    · exact hidle
    · exact absurd ht (arrivalPhase_ne_l _ _)
  · rw [harr] at ht
    exact absurd ht (arrivalPhase_ne_l _ _)

/-- Inside `NOW` only the timer and `NOW` itself have a step (41_timebase.md R105). -/
theorem expire_or_now_of_inNow (hs : s.NowSection) (hin : s.inNow) (h : exec i s = .next t) :
    i = .expire ∨ i = .now := by
  rcases exec_position_cases h with ⟨hevent, -, -⟩ | ⟨hmem, -⟩
  · have htick := ne_tick_of_ie_false (hs.1 hin) h
    cases i with
    | tick => exact absurd rfl htick
    | expire => exact .inl rfl
    | _ => cases hevent
  · exact .inr (now_of_inNow_mem hin hmem)

/-- `NOW` enters its section with `IE` cleared and reads the counter in it, and an expiry in between
moves neither (R105). -/
theorem State.NowSection.exec (hs : s.NowSection) (h : exec i s = .next t) : t.NowSection := by
  by_cases hin : t.inNow
  · have hi : i = .expire ∨ i = .now := by
      rcases exec_position_cases h with ⟨-, -, hphase⟩ | ⟨-, ⟨-, hmem⟩ | ⟨-, harr⟩⟩
      · rw [State.inNow, hphase] at hin
        exact expire_or_now_of_inNow hs hin h
      · exact .inr (now_of_inNow_mem hin hmem)
      · simp [State.inNow, harr] at hin
    rcases hi with rfl | rfl
    · obtain ⟨-, rfl⟩ := execExpire_next.1 h
      exact hs
    · obtain ⟨-, ⟨-, rfl⟩ | ⟨hp, rfl⟩ | ⟨-, rfl⟩⟩ := execNow_next h
      · exact ⟨fun _ => rfl, fun hf => nomatch hf⟩
      · exact ⟨fun _ => hs.1 (.inl hp), fun _ => rfl⟩
      · simp [State.inNow] at hin
  · exact ⟨fun hf => absurd hf hin, fun hf => absurd (.inr hf) hin⟩

/-- No operation but `XFER` touches the count or the flag (R25, R214). -/
theorem exec_keeps_count (hi : ∀ b, i ≠ .xfer b) (h : exec i s = .next t) :
    t.cnt = s.cnt ∧ t.done = s.done := by
  constructor
  · exact elementsChangeOnlyAsTabled i s t h .cnt (by cases i <;> simp [writeSet] at hi ⊢)
  · rcases exec_done_cases h with hkeep | ⟨-, -, b, hb⟩ | ⟨-, -, -, b, hb⟩
    · exact hkeep
    · exact absurd hb (hi b)
    · exact absurd hb (hi b)

/-- The count is cleared on entry to the pulse loop and wraps on leaving it (R25, 43_bus_transfer.md
R153, R157). -/
theorem State.BusSection.exec (hs : s.BusSection) (hw : 0 < s.cfg.busW)
    (h : exec i s = .next t) : t.BusSection := by
  obtain ⟨hout, hloop, hafter⟩ := hs
  by_cases hi : ∃ b, i = .xfer b
  · obtain ⟨b, rfl⟩ := hi
    obtain ⟨-, ⟨hp, rfl⟩ | ⟨-, rfl⟩ | ⟨hp, hdone, rfl⟩ | ⟨hp, hdone, rfl⟩ | ⟨hp, rfl⟩⟩ :=
      execXfer_next h
    · simpa [State.BusSection] using hout (by simp [hp])
    · simpa [State.BusSection] using hw
    · obtain ⟨-, hclear⟩ := hloop hp
      rcases pulse_counts s with ⟨-, hcnt, -⟩ | ⟨-, -, hkeep⟩
      · simpa [State.BusSection, hdone] using hcnt
      · rw [hkeep, hclear] at hdone; cases hdone
    · obtain ⟨hlt, -⟩ := hloop hp
      rcases pulse_counts s with ⟨-, hcnt, -⟩ | ⟨hne, hcnt, -⟩
      · simp [State.BusSection, hp, hcnt, hdone, hw]
      · simp only [State.BusSection, pulse_phase, hp, hcnt, hdone, pulse_cfg]
        simpa using Nat.lt_of_le_of_ne hlt hne
    · simpa [State.BusSection] using hout (by simp [hp])
  · have hi' : ∀ b, i ≠ .xfer b := fun b hb => hi ⟨b, hb⟩
    obtain ⟨hcnt, hdone⟩ := exec_keeps_count hi' h
    rw [State.BusSection, hcnt, hdone, exec_keeps_cfg h]
    rcases exec_position_cases h with ⟨-, -, hphase⟩ | ⟨hmem, hcase⟩
    · rw [hphase]; exact ⟨hout, hloop, hafter⟩
    · have hx (q : Phase) (hq : q ∈ phasesOf i) : q ≠ .x3 ∧ q ≠ .x4 :=
        ⟨fun he => hi (xfer_of_mem (.inl he) hq), fun he => hi (xfer_of_mem (.inr he) hq)⟩
      have hnot : t.phase ≠ .x3 ∧ t.phase ≠ .x4 := by
        rcases hcase with ⟨-, ht⟩ | ⟨-, ht⟩
        · exact hx _ ht
        · simp [ht]
      exact ⟨fun _ => hout (hx _ hmem).1, fun he => absurd he hnot.1, fun he => absurd he hnot.2⟩

/-- A picked operation moves a valid position to a valid one. -/
theorem State.PositionValid.step (hs : s.PositionValid) (h : step s = .next t) :
    t.PositionValid := by
  obtain ⟨i, hpick, hexec⟩ := step_next h
  obtain ⟨hprog, hwhich⟩ := pick_run hpick
  have hkeep := step_keeps_prog h
  have hcur (hhost : s.picked.phase ∈ phasesOf i) : s.current = some i := by
    rcases hwhich with ⟨-, rfl⟩ | ⟨-, rfl⟩ | ⟨-, hcur⟩
    · cases hhost
    · cases hhost
    · exact hcur
  rcases exec_position_cases hexec with ⟨-, hidx, hphase⟩ | ⟨hmem, ⟨hidx, hphase⟩ | ⟨hidx, hphase⟩⟩
  · exact hs.within hkeep (by simpa using hidx) (.inl (by simpa using hphase))
  · exact hs.within hkeep (by simpa using hidx) (.inr ⟨i, hcur hmem, hphase⟩)
  · have hlt := idx_lt_of_current (hcur hmem)
    rw [picked_idx] at hidx
    refine positionValid_of_arrival (by rwa [hkeep]) (by rw [hkeep, hidx]; exact hlt) ?_
    rw [hphase, hkeep, hidx, picked_prog, picked_idx]

/-! ## The whole invariant -/

/-- The choice moves the schedule only (log 4). -/
theorem picked_frame (s : State) :
    s.picked = { s with sched := s.picked.sched, drawn := s.picked.drawn } := by
  unfold State.picked State.choiceMade
  repeat' split
  all_goals rfl

theorem State.Inv.picked (h : s.Inv) : s.picked.Inv := by
  rw [picked_frame]
  exact ⟨h.paramsCoherent, h.accBounded, h.bitIdxBounded, h.lineIdlesHigh, h.loadIsSafe,
    h.nowSection, h.busSection, h.positionValid⟩

theorem State.Inv.step (hs : s.Inv) (h : step s = .next t) : t.Inv := by
  obtain ⟨i, -, hexec⟩ := nextOp_of_step h
  have hp := hs.picked
  obtain ⟨hwidths, htime⟩ := hp.paramsCoherent
  obtain ⟨-, hbusW, -⟩ := hwidths
  obtain ⟨ht0, hms, -⟩ := htime
  exact
    { paramsCoherent := hp.paramsCoherent.exec hexec
      accBounded := hp.accBounded.exec (by omega) hexec
      bitIdxBounded := hp.bitIdxBounded.exec hp.paramsCoherent.1 hexec
      lineIdlesHigh := hp.lineIdlesHigh.exec hexec
      loadIsSafe := hp.loadIsSafe.exec hexec
      nowSection := hp.nowSection.exec hexec
      busSection := hp.busSection.exec (by omega) hexec
      positionValid := hs.positionValid.step h }

/-- Settles O57: part by part. -/
theorem everyStepKeepsInvariant : Obligations.EveryStepKeepsInvariant :=
  fun _ _ hs h => hs.step h

/-- From an invariant state with an accepted program the picked operation completes
(60_exceptions.md section 1). -/
theorem State.Inv.exists_step (hs : s.Inv) (hprog : programAccepted s.prog = true) :
    ∃ t, Machine.step s = .next t := by
  obtain ⟨i, hpick⟩ := exists_pick hprog
  rw [step_of_pick hpick]
  obtain ⟨-, ⟨he, rfl⟩ | ⟨he, rfl⟩ | ⟨he, hcur⟩⟩ := pick_run hpick
  · exact ⟨_, execTick_next.2 ⟨by simpa using he, rfl⟩⟩
  · exact ⟨_, exec_expire_of_disabled (by simpa using he)⟩
  · obtain ⟨-, hphase⟩ := hs.positionValid
    rw [hcur] at hphase
    exact exec_completes (by simpa using he) (by simpa using hphase) hs.picked.loadIsSafe

/-- Settles O58: by induction on the length of the run. -/
theorem acceptedProgramNeverStops : Obligations.AcceptedProgramNeverStops := by
  unfold Obligations.AcceptedProgramNeverStops
  intro n
  induction n with
  | zero => exact fun s hs _ => ⟨s, rfl, hs⟩
  | succ n ih =>
    intro s hs hprog
    obtain ⟨u, hu⟩ := hs.exists_step hprog
    obtain ⟨t, hrun, ht⟩ := ih u (hs.step hu) (by rwa [step_keeps_prog hu])
    exact ⟨t, run_succ_next.2 ⟨u, hu, hrun⟩, ht⟩

/-- An overrun is a load on a frame in flight, in the load phase (42_uart_tx.md R126, D20). -/
theorem phase_of_overrun (h : exec i s = .fault .txOverrun) : s.phase = .l ∧ s.busy = true := by
  have hmain (k : Result) (hk : s.mainStep k = .fault .txOverrun) : k = .fault .txOverrun := by
    unfold State.mainStep at hk
    split at hk
    · cases hk
    · exact hk
  have hsingle (u : State) : s.singlePhase u ≠ .fault .txOverrun := by
    intro hu
    have hk := hmain _ hu
    split at hk <;> cases hk
  cases i with
  | sendb b =>
    have hk := hmain _ h
    split at hk
    · split at hk <;> cases hk
    · next hp =>
      split at hk
      · next hb => exact ⟨hp, hb⟩
      · cases hk
    · cases hk
  | xfer b =>
    have hk := hmain _ h
    split at hk <;> cases hk
  | now =>
    have hk := hmain _ h
    split at hk <;> cases hk
  | irqrst b => exact absurd h (hsingle _)
  | irqoff | cson | csoff | enon | enoff | delay => exact absurd h (hsingle _)
  | tick | expire =>
    simp only [exec, execTick, execExpire] at h
    split at h <;> cases h

/-- Settles O28: safe loads are a part of the invariant that every operation keeps by itself, and an
overrun contradicts it. -/
theorem transmitterOverrunIsUnreachable : Obligations.TransmitterOverrunIsUnreachable := by
  unfold Obligations.TransmitterOverrunIsUnreachable
  intro s hs
  have hpicked : s.picked.LoadIsSafe := by simpa [State.LoadIsSafe] using hs
  refine ⟨fun h => ?_, fun t h => ?_⟩
  · unfold step at h
    split at h
    · cases h
    · next i hi =>
      obtain ⟨hp, hb⟩ := phase_of_overrun h
      rw [hpicked hp] at hb
      cases hb
  · obtain ⟨i, -, hexec⟩ := nextOp_of_step h
    exact hpicked.exec hexec

/-! ## Reset (10_state.md R33) -/

/-- Settles O12: the named values of the reset state. -/
theorem resetLeavesLaunchPremises : Obligations.ResetLeavesLaunchPremises := by
  unfold Obligations.ResetLeavesLaunchPremises
  decide

theorem reset_inv : State.reset.Inv :=
  ⟨by decide, by decide, by decide, by decide, by decide, by decide, by decide,
    Nat.zero_le _, rfl⟩

/-- Loading an accepted program keeps the invariant: it moves the position only, to the first phase
of the first command. -/
theorem State.Inv.load (hs : s.Inv) (hcnt : s.cnt = 0) (hp : programAccepted p = true) :
    (s.load p).Inv where
  paramsCoherent := hs.paramsCoherent
  accBounded := hs.accBounded
  bitIdxBounded := hs.bitIdxBounded
  lineIdlesHigh := hs.lineIdlesHigh
  loadIsSafe := fun h => absurd h (arrivalPhase_ne_l p 0)
  nowSection := ⟨fun h => absurd h (by simp [State.load]),
    fun h => absurd h (arrivalPhase_ne_n3 p 0)⟩
  busSection := ⟨fun _ => hcnt, fun h => absurd h (arrivalPhase_ne_x3 p 0),
    fun h => absurd h (arrivalPhase_ne_x4 p 0)⟩
  positionValid := positionValid_of_arrival (programAccepted_iff.1 hp) (Nat.zero_le _) rfl

/-- Settles O13: the reset state meets each part, and loading moves the position only. -/
theorem invariantHoldsAfterLoading : Obligations.InvariantHoldsAfterLoading :=
  ⟨reset_inv, fun _ hp => reset_inv.load rfl hp⟩

end Sys2Proof.Machine

/-!
PROOFS. The Time Base (spec 41_timebase.md): one tick, the handler's two halves, and the counter as
a function of the ticks of a run under both carry tests.
-/

namespace Sys2Proof.Machine

open Sys2Proof

variable {s t : State} {i : Instr} {n : Nat}

/-! ## One tick (R101, R102) -/

/-- Settles O16: from a bounded accumulator the loop is one test; from any state it moves whole
milliseconds and runs to its end. -/
theorem timeBaseStepCarriesWholeMilliseconds :
    Obligations.TimeBaseStepCarriesWholeMilliseconds := by
  unfold Obligations.TimeBaseStepCarriesWholeMilliseconds
  refine fun s => ⟨fun hc hb => ?_, fun hms => ?_⟩
  · have hsum := add_t0_toNat hc hb
    have hadd : s.acc + BitVec.ofNat 16 s.cfg.t0 = BitVec.ofNat 16 (s.acc.toNat + s.cfg.t0) := by
      rw [← hsum, BitVec.ofNat_toNat, BitVec.setWidth_eq]
    rw [timeBaseStep_bounded hc hb]
    simp only [carryTest_iff, hsum]
    split
    · next hcarry =>
      have hsub : s.acc + BitVec.ofNat 16 s.cfg.t0 - BitVec.ofNat 16 s.cfg.msUnits =
          BitVec.ofNat 16 (s.acc.toNat + s.cfg.t0 - s.cfg.msUnits) := by
        rw [← hsum, ← sub_msUnits_toNat (by omega), BitVec.ofNat_toNat, BitVec.setWidth_eq]
      rw [hsub]
    · rw [hadd]
  · obtain ⟨k, -, hmillis, hacc⟩ := carryLoop_moves s.cfg.tbCarryStrict s.cfg.msUnits
      (carryFuel (s.acc + BitVec.ofNat 16 s.cfg.t0)) s.millis (s.acc + BitVec.ofNat 16 s.cfg.t0)
    exact ⟨k, hmillis, hacc, carryLoop_ends hms _ _ _⟩

/-- `TimeBaseStep` reads and writes nothing of the transmitter (20_memory.md section 5). -/
theorem uartStep_timeBaseStep (s : State) :
    uartStep (timeBaseStep s) = timeBaseStep (uartStep s) := by
  simp only [uartStep, apply_ite timeBaseStep]
  rfl

/-- Settles O17: the halves write what the other neither reads nor writes. -/
theorem handlerHalvesCommute : Obligations.HandlerHalvesCommute :=
  fun s => ⟨uartStep_timeBaseStep s, rfl⟩

/-! ## One step of the machine -/

theorem step_keeps_timeBase (h : step s = .next t) (hop : s.nextOp ≠ some .tick) :
    t.millis = s.millis ∧ t.acc = s.acc := by
  obtain ⟨i, hi, hexec⟩ := nextOp_of_step h
  have hi' : i ≠ .tick := by rintro rfl; exact hop hi
  obtain ⟨hmillis, hacc, -⟩ := exec_keeps_timeBase_and_line hi' hexec
  exact ⟨by rw [hmillis, picked_millis], by rw [hacc, picked_acc]⟩

@[simp] theorem tickBody_millis (s : State) : (tickBody s).millis = (timeBaseStep s).millis := by
  rw [tickBody_frame]

@[simp] theorem tickBody_acc (s : State) : (tickBody s).acc = (timeBaseStep s).acc := by
  rw [tickBody_frame]

/-- A step that runs `TICK` does to the Time Base what `TimeBaseStep` does. -/
theorem step_tick_timeBase (h : step s = .next t) (hop : s.nextOp = some .tick) :
    t.millis = (timeBaseStep s).millis ∧ t.acc = (timeBaseStep s).acc := by
  obtain ⟨i, hi, hexec⟩ := nextOp_of_step h
  obtain rfl : i = .tick := Option.some.inj (hi.symm.trans hop)
  obtain ⟨-, rfl⟩ := execTick_next.1 hexec
  rw [tickBody_millis, tickBody_acc, picked_frame]
  exact ⟨rfl, rfl⟩

theorem step_keeps_accBounded (hc : s.cfg.TimeCoherent) (hb : s.AccBounded)
    (h : step s = .next t) : t.AccBounded := by
  obtain ⟨h0, hle, -⟩ := hc
  obtain ⟨i, -, hexec⟩ := nextOp_of_step h
  have hpicked : s.picked.AccBounded := by rwa [State.AccBounded, picked_acc, picked_cfg]
  exact hpicked.exec (by rw [picked_cfg]; omega) hexec

/-- A step moves the counter by at most one millisecond (R102). -/
theorem step_millis_cases (hc : s.cfg.TimeCoherent) (hb : s.AccBounded) (h : step s = .next t) :
    t.millis = s.millis ∨ t.millis = s.millis + 1 := by
  by_cases hop : s.nextOp = some .tick
  · rw [(step_tick_timeBase h hop).1]
    exact timeBaseStep_millis_cases hc hb
  · exact .inl (step_keeps_timeBase h hop).1

/-- Settles O20: the one writer of the Time Base, and the bounds of its update. -/
theorem timeBaseMovesOnlyInTick : Obligations.TimeBaseMovesOnlyInTick := by
  unfold Obligations.TimeBaseMovesOnlyInTick
  refine fun s t h => ⟨step_keeps_timeBase h,
    fun hop hc => ⟨?_, fun hb => step_millis_cases hc hb h⟩⟩
  obtain ⟨h0, hle, -⟩ := hc
  have hbounded : (timeBaseStep s).AccBounded := timeBaseStep_accBounded (by omega)
  rw [State.AccBounded, (step_tick_timeBase h hop).2, step_keeps_cfg h]
  exact hbounded

/-! ## Along a run -/

/-- The elapsed time a Time Base shows, in accumulator units (R103). -/
def State.elapsedUnits (s : State) : Nat := s.cfg.msUnits * s.millis.toNat + s.acc.toNat

theorem millis_add_one_toNat {m : MillisWord} (h : m.toNat + 1 < 2 ^ 64) :
    (m + 1).toNat = m.toNat + 1 := by
  rw [BitVec.toNat_add]
  exact Nat.mod_eq_of_lt h

/-- A tick whose result stays below the wrap of the counter adds `T0` units (R101, R103). -/
theorem timeBaseStep_elapsedUnits (hc : s.cfg.TimeCoherent) (hb : s.AccBounded)
    (hwrap : s.elapsedUnits + s.cfg.t0 < s.cfg.msUnits * 2 ^ 64) :
    (timeBaseStep s).elapsedUnits = s.elapsedUnits + s.cfg.t0 := by
  have hsum := add_t0_toNat hc hb
  unfold State.elapsedUnits at *
  rw [timeBaseStep_bounded hc hb]
  split
  · next hcarry =>
    have hms : s.cfg.msUnits ≤ s.acc.toNat + s.cfg.t0 := by
      have := (carryTest_iff _ _ _).1 hcarry
      omega
    have hlt : s.millis.toNat + 1 < 2 ^ 64 := by
      refine Nat.lt_of_mul_lt_mul_left (a := s.cfg.msUnits) ?_
      rw [Nat.mul_add]
      omega
    simp only [millis_add_one_toNat hlt, sub_msUnits_toNat (hsum ▸ hms), hsum, Nat.mul_add]
    omega
  · simp only [hsum]
    omega

/-- A bounded accumulator with coherent parameters: what the closed forms carry along a run. -/
structure State.TimeBaseSound (s : State) : Prop where
  coherent : s.cfg.TimeCoherent
  bounded : s.AccBounded

theorem State.TimeBaseSound.step (hs : s.TimeBaseSound) (h : step s = .next t) :
    t.TimeBaseSound :=
  ⟨by rw [step_keeps_cfg h]; exact hs.coherent, step_keeps_accBounded hs.coherent hs.bounded h⟩

theorem State.TimeBaseSound.of_run (hs : s.TimeBaseSound) (h : run n s = .next t) :
    t.TimeBaseSound :=
  run_keeps (P := State.TimeBaseSound) (fun _ _ hu => hu.step) hs h

theorem timeBaseSound_of_clean (hc : s.cfg.TimeCoherent) (hclean : s.CleanTimeBase) :
    s.TimeBaseSound := by
  obtain ⟨-, hacc⟩ := hclean
  refine ⟨hc, ?_⟩
  obtain ⟨h0, hle, -⟩ := hc
  simp only [State.AccBounded, hacc]
  exact Nat.lt_of_lt_of_le (Nat.lt_of_lt_of_le h0 hle) (Nat.le_add_right _ _)

theorem elapsedUnits_of_clean (hclean : s.CleanTimeBase) : s.elapsedUnits = 0 := by
  obtain ⟨hmillis, hacc⟩ := hclean
  simp [State.elapsedUnits, hmillis, hacc]

/-- Along a run that stays below the wrap each `TICK`, and nothing else, adds `T0` units (R103). -/
theorem State.TimeBaseSound.run_elapsedUnits (hs : s.TimeBaseSound) (h : run n s = .next t)
    (hwrap : s.elapsedUnits + s.cfg.t0 * (runOps n s).count .tick < s.cfg.msUnits * 2 ^ 64) :
    t.elapsedUnits = s.elapsedUnits + s.cfg.t0 * (runOps n s).count .tick := by
  induction n generalizing s with
  | zero => cases h; simp [runOps]
  | succ n ih =>
    obtain ⟨u, hu, hrest⟩ := run_succ_next.1 h
    obtain ⟨i, hi, -⟩ := nextOp_of_step hu
    have hcfg := step_keeps_cfg hu
    rw [runOps_succ hi hu] at hwrap ⊢
    by_cases htick : i = .tick
    · subst htick
      rw [List.count_cons_self, Nat.mul_add, Nat.mul_one] at hwrap ⊢
      obtain ⟨hmillis, hacc⟩ := step_tick_timeBase hu hi
      have hunits : u.elapsedUnits = s.elapsedUnits + s.cfg.t0 := by
        rw [← timeBaseStep_elapsedUnits hs.coherent hs.bounded (by omega)]
        simp only [State.elapsedUnits, hmillis, hacc, hcfg]
        rfl
      have := ih (hs.step hu) hrest (by rw [hcfg, hunits]; omega)
      rw [hcfg, hunits] at this
      omega
    · rw [List.count_cons_of_ne htick] at hwrap ⊢
      obtain ⟨hmillis, hacc⟩ := step_keeps_timeBase hu (by rw [hi]; simpa using htick)
      have hunits : u.elapsedUnits = s.elapsedUnits := by
        simp only [State.elapsedUnits, hmillis, hacc, hcfg]
      rw [← hunits, ← hcfg]
      exact ih (hs.step hu) hrest (by rwa [hcfg, hunits])

theorem run_keeps_cfg (h : run n s = .next t) : t.cfg = s.cfg :=
  (programAndParametersAreImmutable n s t h).2

/-- From a clean start the Time Base shows `T0` units per tick (R103). -/
theorem elapsedUnits_of_clean_run (hc : s.cfg.TimeCoherent) (hclean : s.CleanTimeBase)
    (h : run n s = .next t)
    (hwrap : s.cfg.t0 * (runOps n s).count .tick < s.cfg.msUnits * 2 ^ 64) :
    s.cfg.msUnits * t.millis.toNat + t.acc.toNat = s.cfg.t0 * (runOps n s).count .tick := by
  have hunits := (timeBaseSound_of_clean hc hclean).run_elapsedUnits h
    (by rwa [elapsedUnits_of_clean hclean, Nat.zero_add])
  rwa [elapsedUnits_of_clean hclean, Nat.zero_add, State.elapsedUnits, run_keeps_cfg h] at hunits

/-- Settles O18: the units are `MS_UNITS` times the counter plus an accumulator below `MS_UNITS`. -/
theorem counterIsFloorOfElapsedUnits : Obligations.CounterIsFloorOfElapsedUnits := by
  unfold Obligations.CounterIsFloorOfElapsedUnits
  intro n s t hc hclean hstrict hrun hwrap
  have hunits := elapsedUnits_of_clean_run hc hclean hrun hwrap
  have hlt : t.acc.toNat < s.cfg.msUnits := by
    have hbounded := ((timeBaseSound_of_clean hc hclean).of_run hrun).bounded
    simpa [State.AccBounded, run_keeps_cfg hrun, hstrict] using hbounded
  rw [← hunits]
  refine ⟨?_, ?_⟩
  · rw [Nat.mul_add_div (by omega), Nat.div_eq_of_lt hlt, Nat.add_zero]
  · rw [Nat.mul_add_mod, Nat.mod_eq_of_lt hlt]

/-- Under the strict test a tick leaves at least one unit in the accumulator (R108). -/
theorem timeBaseStep_acc_pos (hs : s.TimeBaseSound) (hstrict : s.cfg.tbCarryStrict = true) :
    1 ≤ (timeBaseStep s).acc.toNat := by
  have hsum := add_t0_toNat hs.coherent hs.bounded
  obtain ⟨h0, -, -⟩ := hs.coherent
  rw [timeBaseStep_bounded hs.coherent hs.bounded]
  split
  · next hcarry =>
    have hms := (carryTest_iff _ _ _).1 hcarry
    rw [hstrict, Bool.toNat_true, hsum] at hms
    rw [sub_msUnits_toNat (by omega), hsum]
    omega
  · simp only [hsum]
    omega

/-- Under the strict test the accumulator is not empty again once a tick has been taken (R108). -/
theorem State.TimeBaseSound.run_acc_pos (hs : s.TimeBaseSound)
    (hstrict : s.cfg.tbCarryStrict = true) (h : run n s = .next t)
    (hpos : 1 ≤ s.acc.toNat ∨ 1 ≤ (runOps n s).count .tick) : 1 ≤ t.acc.toNat := by
  induction n generalizing s with
  | zero => cases h; simpa [runOps] using hpos
  | succ n ih =>
    obtain ⟨u, hu, hrest⟩ := run_succ_next.1 h
    obtain ⟨i, hi, -⟩ := nextOp_of_step hu
    refine ih (hs.step hu) (by rwa [step_keeps_cfg hu]) hrest ?_
    by_cases htick : i = .tick
    · left
      rw [(step_tick_timeBase hu (by rw [hi, htick])).2]
      exact timeBaseStep_acc_pos hs hstrict
    · rwa [runOps_succ hi hu, List.count_cons_of_ne htick,
        ← (step_keeps_timeBase hu (by rw [hi]; simpa using htick)).2] at hpos

/-- Settles O19: the accumulator now runs from 1 to `MS_UNITS`. -/
theorem strictCounterClosedForm : Obligations.StrictCounterClosedForm := by
  unfold Obligations.StrictCounterClosedForm
  intro n s t hc hclean hstrict hrun hticks hwrap
  have hsound := timeBaseSound_of_clean hc hclean
  have hunits := elapsedUnits_of_clean_run hc hclean hrun hwrap
  have hpos := hsound.run_acc_pos hstrict hrun (.inr hticks)
  have hle : t.acc.toNat < s.cfg.msUnits + 1 := by
    have hbounded := (hsound.of_run hrun).bounded
    simpa only [State.AccBounded, run_keeps_cfg hrun, hstrict, Bool.toNat_true] using hbounded
  have hlt : t.acc.toNat - 1 < s.cfg.msUnits := by omega
  rw [← hunits, Nat.add_sub_assoc hpos]
  refine ⟨?_, ?_⟩
  · rw [Nat.mul_add_div (by omega), Nat.div_eq_of_lt hlt, Nat.add_zero]
  · rw [Nat.mul_add_mod, Nat.mod_eq_of_lt hlt, Nat.sub_add_cancel hpos]

/-- Settles O21: by induction, at most one millisecond per step. -/
theorem counterNeverDecreases : Obligations.CounterNeverDecreases := by
  unfold Obligations.CounterNeverDecreases
  intro n
  induction n with
  | zero => intro s t _ _ _ h; cases h; exact ⟨Nat.le_refl _, Nat.le_refl _⟩
  | succ n ih =>
    intro s t hc hb hwrap h
    obtain ⟨u, hu, hrest⟩ := run_succ_next.1 h
    have hone : u.millis.toNat = s.millis.toNat ∨ u.millis.toNat = s.millis.toNat + 1 := by
      rcases step_millis_cases hc hb hu with hm | hm
      · exact .inl (by rw [hm])
      · exact .inr (by rw [hm, millis_add_one_toNat (by omega)])
    obtain ⟨hlow, hhigh⟩ := ih u t (by rwa [step_keeps_cfg hu]) (step_keeps_accBounded hc hb hu)
      (by omega) hrest
    omega

end Sys2Proof.Machine

/-!
PROOFS. Expiries and the critical section of `NOW` (spec 40_tick.md R92, R93, 41_timebase.md R105,
70_reset_and_hazards.md R267, R271): the balance of expiries and ticks along a run, and what happens
between N1 and N3.
-/

namespace Sys2Proof.Machine

open Sys2Proof

variable {s t : State} {i : Instr} {n : Nat}

/-! ## The balance of expiries -/

theorem exec_keeps_lost (hi : i ≠ .expire) (h : exec i s = .next t) : t.lost = s.lost := by
  obtain ⟨-, -, -, -, -, -, hlost, -⟩ := onlyOwnersChangeTheRest i s t h
  exact hlost hi

/-- One operation: an expiry goes to the latch, or to the lost count when the latch is set; a tick
takes it from the latch (R90, R93). -/
theorem exec_expiry_balance (h : exec i s = .next t) :
    [i].count .expire + s.pend.toNat + s.lost = [i].count .tick + t.pend.toNat + t.lost := by
  rcases exec_pend_cases h with ⟨hpend, hexpire, htick⟩ | ⟨-, rfl⟩ | ⟨hpend, rfl⟩
  · rw [hpend, exec_keeps_lost hexpire h, List.count_singleton, List.count_singleton,
      if_neg (by simpa using hexpire), if_neg (by simpa using htick)]
  · obtain ⟨-, rfl⟩ := execExpire_next.1 h
    cases hp : s.pend <;> simp [lostAfterExpire, hp]
    omega
  · have hs : s.pend = true := (tickEnabled_iff.1 (execTick_next.1 h).1).2
    rw [hpend, hs, exec_keeps_lost (by simp) h]
    simp

/-- The operations of a run of one more step are the first and the rest. -/
theorem runOps_succ_append (hi : s.nextOp = some i) (h : step s = .next t) :
    runOps (n + 1) s = [i] ++ runOps n t := runOps_succ hi h

/-- Along a run expiries and ticks differ by the latch and the lost count only (R93). -/
theorem run_expiry_balance (h : run n s = .next t) :
    (runOps n s).count .expire + s.pend.toNat + s.lost =
      (runOps n s).count .tick + t.pend.toNat + t.lost := by
  induction n generalizing s with
  | zero => cases h; simp [runOps]
  | succ n ih =>
    obtain ⟨u, hu, hrest⟩ := run_succ_next.1 h
    obtain ⟨i, hi, hexec⟩ := nextOp_of_step hu
    have hone := exec_expiry_balance hexec
    have htail := ih hrest
    rw [picked_pend, picked_lost] at hone
    rw [runOps_succ_append hi hu, List.count_append, List.count_append]
    omega

/-- Where `EXPIRE` is next, it completes and counts a set latch as lost (R92, R93). -/
theorem step_of_expire_next (h : s.nextOp = some .expire) :
    step s = .next s.picked.latchExpiry := by
  unfold State.nextOp at h
  split at h
  · cases h
  · next i hpick =>
    cases h
    rw [step_of_pick hpick]
    obtain ⟨-, ⟨-, hi⟩ | ⟨he, -⟩ | ⟨he, -⟩⟩ := pick_run hpick
    · cases hi
    · exact exec_expire_of_disabled (by simpa using he)
    · exact exec_expire_of_disabled (by simpa using he)

/-- On a run without loss no expiry finds an earlier one pending (R267). -/
theorem State.NoLossOnRun.pend_of_expire_next (hs : s.NoLossOnRun) (h : run n s = .next t)
    (hop : t.nextOp = some .expire) : t.pend = false := by
  have hrun : run (n + 1) s = .next t.picked.latchExpiry := by
    rw [run_add h]
    exact run_succ_next.2 ⟨_, step_of_expire_next hop, rfl⟩
  have hlost : lostAfterExpire t.pend t.lost = 0 := by
    simpa [State.NoLoss] using hs _ _ hrun
  cases hp : t.pend with
  | false => rfl
  | true => simp [lostAfterExpire, hp] at hlost

/-- Without a tick the latch ends up set exactly if it was or an expiry occurred (R22). -/
theorem run_pend_of_no_tick (h : run n s = .next t) (htick : Instr.tick ∉ runOps n s) :
    t.pend = true ↔ s.pend = true ∨ Instr.expire ∈ runOps n s := by
  induction n generalizing s with
  | zero => cases h; simp [runOps]
  | succ n ih =>
    obtain ⟨u, hu, hrest⟩ := run_succ_next.1 h
    obtain ⟨i, hi, hexec⟩ := nextOp_of_step hu
    rw [runOps_succ hi hu, List.mem_cons, not_or] at htick
    obtain ⟨hne, htail⟩ := htick
    rw [runOps_succ hi hu, List.mem_cons, ih hrest htail]
    rcases exec_pend_cases hexec with ⟨hpend, hexpire, -⟩ | ⟨hpend, rfl⟩ | ⟨-, rfl⟩
    · rw [hpend, picked_pend]
      simp [Ne.symm hexpire]
    · simp [hpend]
    · exact absurd rfl hne

/-! ## Inside `NOW` -/

theorem State.NowSection.picked (hs : s.NowSection) : s.picked.NowSection := by
  rw [picked_frame]
  exact hs

/-- Settles O26: only `EXPIRE` and `NOW` have a step there, and neither moves the counter. -/
theorem nowCriticalSectionFreezesCounter : Obligations.NowCriticalSectionFreezesCounter := by
  unfold Obligations.NowCriticalSectionFreezesCounter
  intro s t hs hin h
  obtain ⟨i, hi, hexec⟩ := nextOp_of_step h
  have hnow : t.NowSection := hs.picked.exec hexec
  have hin' : s.picked.inNow := by simpa [State.inNow] using hin
  rw [hi]
  rcases expire_or_now_of_inNow hs.picked hin' hexec with rfl | rfl
  · obtain ⟨-, rfl⟩ := execExpire_next.1 hexec
    exact ⟨by simp, by simp, by simp, hnow, .inl rfl, fun _ hf => nomatch hf⟩
  · obtain ⟨-, ⟨hp, -⟩ | ⟨hp, rfl⟩ | ⟨hp, rfl⟩⟩ := execNow_next hexec
    · rw [picked_phase] at hp
      rcases hin with hq | hq <;> rw [hq] at hp <;> cases hp
    · rw [picked_phase] at hp
      exact ⟨by simp, by simp, by simp, hnow, .inr rfl, fun hq => by rw [hq] at hp; cases hp⟩
    · have hv : s.v = s.millis := hs.2 (by simpa using hp)
      exact ⟨by simp, by simp, by simp, hnow, .inr rfl, fun _ _ => ⟨by simp [hv], by simp⟩⟩

/-- A run that stays inside `NOW` takes no tick (R105). -/
theorem State.NowSection.no_tick_of_run (hs : s.NowSection) (h : run n s = .next t)
    (hin : ∀ k ≤ n, ∀ u, run k s = .next u → u.inNow) : Instr.tick ∉ runOps n s := by
  induction n generalizing s with
  | zero => simp [runOps]
  | succ n ih =>
    obtain ⟨u, hu, hrest⟩ := run_succ_next.1 h
    have hhere : s.inNow := hin 0 (Nat.zero_le _) s rfl
    obtain ⟨-, -, -, hsection, hop, -⟩ := nowCriticalSectionFreezesCounter s u hs hhere hu
    have htail : Instr.tick ∉ runOps n u :=
      ih hsection hrest fun k hk w hw =>
        hin (k + 1) (by omega) w (run_succ_next.2 ⟨u, hu, hw⟩)
    rcases hop with hop | hop <;> simp [runOps_succ hop hu, htail]

/-- Settles O23: the balance along the run; the latch then tells how many of the expiries inside a
`NOW` it still holds. -/
theorem everyExpiryIsServicedPendingOrLost : Obligations.EveryExpiryIsServicedPendingOrLost := by
  unfold Obligations.EveryExpiryIsServicedPendingOrLost
  refine ⟨fun n s t => run_expiry_balance, fun n s t hs h => ⟨?_, hs.pend_of_expire_next h⟩,
    fun n s t hspan hs hp hpend h hin => ?_⟩
  · have hbalance := run_expiry_balance h
    have hstart : s.lost = 0 := hs 0 s rfl
    have hend : t.lost = 0 := hs n t h
    omega
  · have htick := hs.no_tick_of_run h hin
    refine ⟨?_, htick⟩
    have hbalance := run_expiry_balance h
    have hone : (runOps n s).count .expire ≤ 1 := hspan 0 n s t rfl h hin
    have hlatch := run_pend_of_no_tick h htick
    rw [List.count_eq_zero_of_not_mem htick, hpend, Bool.toNat_false] at hbalance
    by_cases hexpire : Instr.expire ∈ runOps n s
    · have hpos : 0 < (runOps n s).count .expire := List.count_pos_iff.2 hexpire
      rw [hlatch.2 (.inr hexpire), Bool.toNat_true] at hbalance
      omega
    · have hclear : t.pend = false := by simpa [hpend, hexpire] using hlatch
      rw [List.count_eq_zero_of_not_mem hexpire, hclear, Bool.toNat_false] at hbalance
      omega

end Sys2Proof.Machine

/-!
PROOFS. Frames on the serial line (spec 42_uart_tx.md R122 to R128, 30_encoding.md R60): a frame
tick by tick, a frame along the machine's steps, the levels sampled along a run, and the end of the
busy-wait under a fair timer.
-/

namespace Sys2Proof.Machine

open Sys2Proof

variable {s t u : State} {i : Instr} {b : Byte} {k m n : Nat}

/-! ## Repetition -/

theorem repeatStep_add {α : Type} (f : α → α) (m n : Nat) (a : α) :
    repeatStep f (m + n) a = repeatStep f n (repeatStep f m a) := by
  induction m generalizing a with
  | zero => rw [Nat.zero_add]; rfl
  | succ m ih => rw [Nat.succ_add]; exact ih (f a)

theorem repeatStep_succ {α : Type} (f : α → α) (n : Nat) (a : α) :
    repeatStep f (n + 1) a = f (repeatStep f n a) := repeatStep_add f n 1 a

theorem repeatStep_fixed {α : Type} {f : α → α} {a : α} (h : f a = a) (n : Nat) :
    repeatStep f n a = a := by
  induction n with
  | zero => rfl
  | succ n ih => rw [repeatStep_succ, ih, h]

/-! ## One frame, tick by tick -/

/-- The tenth tick sends the stop bit and ends the frame (R122). -/
theorem State.FrameAt.uartStep_last (h : s.FrameAt b 9) :
    Machine.uartStep s = { s with txLine := true, busy := false, bitIdx := 10 } := by
  rcases h.uartStep_cases with ⟨hk, -⟩ | ⟨-, hk, -⟩ | ⟨-, hu⟩
  · cases hk
  · omega
  · exact hu

/-- Settles O30: the first nine ticks carry the frame forward, the tenth ends it, and an idle
transmitter stays. -/
theorem frameTickByTick : Obligations.FrameTickByTick := by
  unfold Obligations.FrameTickByTick
  rintro s b hc hbusy hidx rfl
  have hframe (k : Nat) (hk : k ≤ 9) : (repeatStep uartStep k s).FrameAt s.shift k := by
    have := (frameAt_of_loaded hc hbusy hidx).repeatStep (n := k) (by omega)
    rwa [Nat.zero_add] at this
  have hten : repeatStep uartStep 10 s =
      { repeatStep uartStep 9 s with txLine := true, busy := false, bitIdx := 10 } := by
    rw [repeatStep_succ, (hframe 9 (Nat.le_refl 9)).uartStep_last]
  refine ⟨fun k hk => ?_, fun k hk => ?_, fun k => ?_⟩
  · by_cases hnine : k ≤ 9
    · have h := hframe k hnine
      refine ⟨h.bitIdx, by simp [h.busy]; omega, ?_⟩
      rw [h.shift, Nat.min_eq_left hnine]
    · obtain rfl : k = 10 := by omega
      rw [hten]
      exact ⟨rfl, by simp, (hframe 9 (Nat.le_refl 9)).shift⟩
  · rw [repeatStep_succ]
    exact (hframe k (by omega)).uartStep_txLine
  · rw [repeatStep_add]
    exact repeatStep_fixed (uartStep_of_idle (by rw [hten])) k

/-- The tick that clears `BUSY` drives the stop level (R122). -/
theorem uartStep_txLine_of_cleared (hbusy : s.busy = true) (h : (uartStep s).busy = false) :
    (uartStep s).txLine = true := by
  rcases uartStep_cases s with ⟨hidle, -⟩ | ⟨-, -, hu⟩ | ⟨-, -, -, hu⟩ | ⟨-, -, -, hu⟩
  · rw [hbusy] at hidle; cases hidle
  · rw [hu] at h; simp [hbusy] at h
  · rw [hu] at h; simp [hbusy] at h
  · rw [hu]

/-- The handler's body does to a frame in flight what `UartStep` does. -/
theorem State.TicksLeft.tickBody (h : s.TicksLeft (n + 1)) :
    (n = 0 ∧ (Machine.tickBody s).busy = false ∧ (Machine.tickBody s).txLine = true) ∨
      (0 < n ∧ (Machine.tickBody s).TicksLeft n) := by
  rcases h.uartStep with ⟨hn, hidle⟩ | ⟨hn, hleft⟩
  · exact .inl ⟨hn, hidle, uartStep_txLine_of_cleared h.busy hidle⟩
  · exact .inr ⟨hn, hleft.coherent, hleft.busy, hleft.left⟩

/-- The ticks a frame needs end it, and no fewer (20_memory.md R54). -/
theorem State.TicksLeft.repeat_tickBody (h : s.TicksLeft (n + 1)) :
    (repeatStep Machine.tickBody (n + 1) s).busy = false ∧
    (repeatStep Machine.tickBody (n + 1) s).txLine = true ∧
    ∀ k < n + 1, (repeatStep Machine.tickBody k s).busy = true := by
  induction n generalizing s with
  | zero =>
    rcases h.tickBody with ⟨-, hidle, hline⟩ | ⟨hn, -⟩
    · refine ⟨hidle, hline, fun k hk => ?_⟩
      obtain rfl : k = 0 := by omega
      exact h.busy
    · cases hn
  | succ n ih =>
    rcases h.tickBody with ⟨hn, -⟩ | ⟨-, hleft⟩
    · cases hn
    · obtain ⟨hidle, hline, hbefore⟩ := ih hleft
      refine ⟨hidle, hline, fun k hk => ?_⟩
      cases k with
      | zero => exact h.busy
      | succ k => exact hbefore k (by omega)

/-- Settles O33: the ticks the frame still needs are `9 - BITIDX` and one more. -/
theorem busyClearsWithinTenTicks : Obligations.BusyClearsWithinTenTicks := by
  unfold Obligations.BusyClearsWithinTenTicks
  intro s hc hbusy hle
  have hticks : 10 - s.bitIdx = 9 - s.bitIdx + 1 := by omega
  rw [hticks]
  exact (ticksLeft_of_busy hc hbusy hle).repeat_tickBody

/-! ## A frame along the machine's steps -/

/-- A frame stands where the transmitter's registers say. -/
theorem State.FrameAt.of_transmitter (h : s.FrameAt b k) (hcfg : t.cfg = s.cfg)
    (hline : t.txLine = s.txLine) (hshift : t.shift = s.shift) (hbusy : t.busy = s.busy)
    (hidx : t.bitIdx = s.bitIdx) : t.FrameAt b k where
  coherent := hcfg ▸ h.coherent
  busy := hbusy.trans h.busy
  inFrame := hcfg ▸ h.inFrame
  bitIdx := hidx.trans h.bitIdx
  shift := hshift.trans h.shift
  line j hj := hline ▸ h.line j hj

theorem State.FrameAt.picked (h : s.FrameAt b k) : s.picked.FrameAt b k :=
  h.of_transmitter (by simp) (by simp) (by simp) (by simp) (by simp)

/-- An operation other than `TICK` leaves a frame at its position: the load, the one other writer of
the transmitter, finds it idle (R126). -/
theorem State.FrameAt.exec_of_ne_tick (h : s.FrameAt b k) (hi : i ≠ .tick)
    (hexec : exec i s = .next t) : t.FrameAt b k := by
  obtain ⟨-, -, hline⟩ := exec_keeps_timeBase_and_line hi hexec
  rcases exec_keeps_transmitter_or_loads hi hexec with
    ⟨hbusy, hidx, hshift⟩ | ⟨-, -, -, hidle, -⟩
  · exact h.of_transmitter (exec_keeps_cfg hexec) hline hshift hbusy hidx
  · rw [h.busy] at hidle; cases hidle

/-- A `TICK` before the last position carries a frame one position on (R122). -/
theorem State.FrameAt.exec_tick (h : s.FrameAt b k) (hk : k < 9)
    (hexec : exec .tick s = .next t) : t.FrameAt b (k + 1) := by
  obtain ⟨hline, hshift, hbusy, hidx⟩ := execTick_eq_uartStep hexec
  have hcfg : t.cfg = (Machine.uartStep s).cfg := by
    rw [exec_keeps_cfg hexec, uartStep_frame]
  exact (h.uartStep hk).of_transmitter hcfg hline hshift hbusy hidx

/-- Settles O31: the frame's rule for each kind of operation, in the state after the choice. -/
theorem frameInFlightMovesOnlyByTick : Obligations.FrameInFlightMovesOnlyByTick := by
  unfold Obligations.FrameInFlightMovesOnlyByTick
  intro s t b k _ hframe h
  obtain ⟨i, hi, hexec⟩ := nextOp_of_step h
  rw [hi]
  simp only [ne_eq, Option.some.injEq]
  refine ⟨fun hne => hframe.picked.exec_of_ne_tick hne hexec, ?_, ?_⟩
  · rintro rfl hk
    exact hframe.picked.exec_tick hk hexec
  · rintro rfl rfl
    obtain ⟨hline, -, hbusy, hidx⟩ := execTick_eq_uartStep hexec
    rw [hline, hbusy, hidx, hframe.picked.uartStep_last]
    exact ⟨rfl, rfl, rfl⟩

/-! ## The sampled line -/

theorem lineTrace_succ (hi : s.nextOp = some i) (h : step s = .next t) :
    lineTrace (n + 1) s = if i = .tick then t.txLine :: lineTrace n t else lineTrace n t := by
  rw [lineTrace, hi, h]

/-- From a frame at position `k` on, the levels sampled are those from position `k` on (R60). -/
theorem State.FrameAt.lineTrace_prefix (n : Nat) (h : s.FrameAt b k) :
    (lineTrace n s).take (10 - k) <+: (frame b).drop k := by
  induction n generalizing s k with
  | zero => simp [lineTrace]
  | succ n ih =>
    have hle := h.le_nine
    cases hstep : step s with
    | next t =>
      obtain ⟨i, hi, hexec⟩ := nextOp_of_step hstep
      rw [lineTrace_succ hi hstep]
      split
      · next htick =>
        subst htick
        have hlevel : (frame b)[k]? = some t.txLine := by
          rw [(execTick_eq_uartStep hexec).1]
          exact h.picked.uartStep_txLine
        obtain ⟨hlt, hget⟩ := List.getElem?_eq_some_iff.1 hlevel
        rw [show 10 - k = 10 - (k + 1) + 1 by omega, List.take_succ_cons,
          List.drop_eq_getElem_cons hlt, hget, List.prefix_cons_inj]
        by_cases hk : k < 9
        · exact ih (h.picked.exec_tick hk hexec)
        · obtain rfl : k = 9 := by omega
          simp
      · next hne => exact ih (h.picked.exec_of_ne_tick hne hexec)
    | fault r => simp [lineTrace, hstep]
    | refused r => simp [lineTrace, hstep]

/-- Settles O32: the load stands before position 0. -/
theorem sampledLineIsTheFrame : Obligations.SampledLineIsTheFrame :=
  fun n _ _ _ h => h.lineTrace_prefix n

/-! ## The busy-wait under a fair timer -/

/-- The main context polls a busy transmitter with interrupts enabled, and the frame still needs `n`
ticks (R125, R128). -/
structure State.PollWaits (s : State) (b : Byte) (n : Nat) : Prop where
  accepted : programAccepted s.prog = true
  current : s.current = some (.sendb b)
  phase : s.phase = .p
  ie : s.ie = true
  left : s.TicksLeft n

/-- What the timer moves is no part of the wait. -/
theorem State.PollWaits.of_sameButTimer (h : s.PollWaits b n) (hsame : s.SameButTimer t) :
    t.PollWaits b n := by
  rw [hsame]
  exact ⟨h.accepted, h.current, h.phase, h.ie, h.left.coherent, h.left.busy, h.left.left⟩

/-- A run of a wait with an expiry to come reaches an enabled `TICK`, moving nothing but the timer
on the way: until then it polls (R91, R128). -/
theorem State.PollWaits.reaches_tick (h : s.PollWaits b n) (hrun : run m s = .next u)
    (hexpire : Instr.expire ∈ runOps m s) :
    ∃ j w, run j s = .next w ∧ (runOps j s).count .tick = 0 ∧ s.SameButTimer w ∧
      w.tickEnabled = true := by
  induction m generalizing s with
  | zero => cases hexpire
  | succ m ih =>
    have hpicked := h.of_sameButTimer (sameButTimer_picked s)
    cases he : s.tickEnabled with
    | true => exact ⟨0, s, rfl, rfl, .refl s, he⟩
    | false =>
      have he' : s.picked.tickEnabled = false := by simpa using he
      cases hfires : s.timerFires with
      | true =>
        have hpick := pick_of_timerFires h.accepted he hfires
        have hstep := (step_of_pick hpick).trans (exec_expire_of_disabled he')
        refine ⟨1, _, run_succ_next.2 ⟨_, hstep, rfl⟩, ?_,
          (sameButTimer_picked s).trans (sameButTimer_latchExpiry _), ?_⟩
        · rw [runOps_succ (nextOp_of_pick hpick) hstep]; rfl
        · simp [State.tickEnabled, h.ie]
      | false =>
        have hpick := pick_of_main h.accepted he hfires h.current
        have hop := nextOp_of_pick hpick
        have hstep := (step_of_pick hpick).trans
          (exec_sendb_of_busy he' hpicked.phase hpicked.left.busy)
        obtain ⟨w, hw, hrest⟩ := run_succ_next.1 hrun
        obtain rfl : s.picked = w := Host.Outcome.next.inj (hstep.symm.trans hw)
        rw [runOps_succ hop hstep, List.mem_cons] at hexpire
        obtain ⟨j, w, hj, hcount, hsame, hw⟩ :=
          ih hpicked hrest (hexpire.resolve_left (fun hf => nomatch hf))
        refine ⟨j + 1, w, run_succ_next.2 ⟨_, hstep, hj⟩, ?_,
          (sameButTimer_picked s).trans hsame, hw⟩
        rw [runOps_succ hop hstep, List.count_cons_of_ne (by simp), hcount]

theorem State.SameButTimer.idx_prog (h : s.SameButTimer t) : t.idx = s.idx ∧ t.prog = s.prog := by
  rw [h]
  exact ⟨rfl, rfl⟩

/-- A fair run of a wait comes to the tick after which the frame needs one tick fewer, or is over
(R128). -/
theorem State.PollWaits.next_tick (h : s.PollWaits b (n + 1)) (hfair : s.TimerFair) :
    ∃ j t, run j s = .next t ∧ (runOps j s).count .tick = 1 ∧ t.idx = s.idx ∧ t.prog = s.prog ∧
      t.ie = true ∧ t.phase = .p ∧
      ((n = 0 ∧ t.busy = false ∧ t.txLine = true) ∨ (0 < n ∧ t.PollWaits b n)) := by
  obtain ⟨m, u, hrun, hexpire⟩ := hfair 0 s rfl
  obtain ⟨j, w, hj, hcount, hsame, he⟩ := h.reaches_tick hrun hexpire
  have hw := h.of_sameButTimer hsame
  obtain ⟨hidx, hprog⟩ := hsame.idx_prog
  have hpick := pick_of_tickEnabled hw.accepted he
  have hstep : step w = .next (tickBody w.interruptEntry) := by
    rw [step_of_pick hpick, picked_of_tickEnabled he]
    exact execTick_next.2 ⟨he, rfl⟩
  have hone : run 1 w = .next (tickBody w.interruptEntry) := run_succ_next.2 ⟨_, hstep, rfl⟩
  refine ⟨j + 1, tickBody w.interruptEntry, (run_add hj).trans hone, ?_, by simpa using hidx,
    by simpa using hprog, by simpa using hw.ie, by simpa using hw.phase, ?_⟩
  · rw [runOps_add hj, List.count_append, hcount, runOps_succ (nextOp_of_pick hpick) hstep]
    rfl
  · have hentry : w.interruptEntry.TicksLeft (n + 1) :=
      ⟨hw.left.coherent, hw.left.busy, hw.left.left⟩
    refine hentry.tickBody.imp id fun ⟨hn, hleft⟩ => ⟨hn, ?_⟩
    refine ⟨by simpa using hw.accepted, ?_, by simpa using hw.phase, by simpa using hw.ie, hleft⟩
    rw [State.current, tickBody_prog, tickBody_idx]
    exact hw.current

/-- A fair run of a wait ends it after exactly the ticks the frame needs (R128). -/
theorem State.PollWaits.ends (h : s.PollWaits b (n + 1)) (hfair : s.TimerFair) :
    ∃ j t, run j s = .next t ∧ (runOps j s).count .tick = n + 1 ∧ t.busy = false ∧
      t.txLine = true ∧ t.ie = true ∧ t.idx = s.idx ∧ t.phase = .p ∧ t.prog = s.prog := by
  induction n generalizing s with
  | zero =>
    obtain ⟨j, t, hj, hcount, hidx, hprog, hie, hp, ⟨-, hbusy, hline⟩ | ⟨hn, -⟩⟩ :=
      h.next_tick hfair
    · exact ⟨j, t, hj, hcount, hbusy, hline, hie, hidx, hp, hprog⟩
    · cases hn
  | succ n ih =>
    obtain ⟨j, u, hj, hcount, hidx, hprog, -, -, ⟨hn, -⟩ | ⟨-, hu⟩⟩ := h.next_tick hfair
    · cases hn
    · obtain ⟨m, t, hm, hrest, hbusy, hline, hie, hidx', hp, hprog'⟩ :=
        ih hu (timerFair_run hj hfair)
      refine ⟨j + m, t, (run_add hj).trans hm, ?_, hbusy, hline, hie, hidx'.trans hidx, hp,
        hprog'.trans hprog⟩
      rw [runOps_add hj, List.count_append, hcount, hrest]
      omega

/-- Settles O59: tick by tick, each of them reached under fairness. -/
theorem fairTimerEndsBusyWait : Obligations.FairTimerEndsBusyWait := by
  unfold Obligations.FairTimerEndsBusyWait
  intro s b hfair hprog hc hcur hp hbusy hle hie
  have hwait : s.PollWaits b (9 - s.bitIdx + 1) :=
    ⟨hprog, hcur, hp, hie, ticksLeft_of_busy hc hbusy hle⟩
  rw [show 10 - s.bitIdx = 9 - s.bitIdx + 1 by omega]
  exact hwait.ends hfair

end Sys2Proof.Machine

/-!
PROOFS. The bus (spec 43_bus_transfer.md R152 to R161): what one pulse does to the shift register,
the count and the peripheral, eight pulses as the exchange of a byte, the phases of `XFER` in a row,
and the handler beside them.
-/

namespace Sys2Proof.Machine

open Sys2Proof

variable {s t u : State} {i : Instr} {b : Byte} {j k m n : Nat}

/-! ## The shift register by positions (30_encoding.md R63) -/

theorem getLsbD_shiftIn_msbFirst (v : Byte) (d : Bool) (hk : k < 8) :
    (shiftIn true v d).getLsbD k = if k = 0 then d else v.getLsbD (k - 1) := by
  have hcat : shiftIn true v d = v.extractLsb' 0 7 ++ BitVec.ofBool d := rfl
  rw [hcat, BitVec.getLsbD_append]
  by_cases h0 : k = 0
  · simp [h0]
  · have h1 : ¬ k < 1 := by omega
    have h7 : k - 1 < 7 := by omega
    simp [h0, h7]

theorem getLsbD_shiftIn_lsbFirst (v : Byte) (d : Bool) (hk : k < 8) :
    (shiftIn false v d).getLsbD k = if k = 7 then d else v.getLsbD (k + 1) := by
  have hcat : shiftIn false v d = BitVec.ofBool d ++ v.extractLsb' 1 7 := rfl
  rw [hcat, BitVec.getLsbD_append]
  by_cases h7 : k = 7
  · simp [h7]
  · have hlt : k < 7 := by omega
    simp [h7, hlt, Nat.add_comm 1 k]

/-- In bus order the entering bit takes the last position and every other moves one up. -/
theorem busBit_shiftIn (msb : Bool) (v : Byte) (d : Bool) (hk : k < 8) :
    busBit msb k (shiftIn msb v d) = if k = 7 then d else busBit msb (k + 1) v := by
  cases msb with
  | true =>
    simp only [busBit, if_true]
    rw [getLsbD_shiftIn_msbFirst v d (by omega)]
    by_cases h7 : k = 7
    · simp [h7]
    · rw [if_neg (by omega), if_neg h7, show 8 - 1 - k - 1 = 8 - 1 - (k + 1) by omega]
  | false => exact getLsbD_shiftIn_lsbFirst v d hk

/-- The bit presented on data-out is the first in bus order (R152). -/
theorem dataOut_eq_busBit (msb : Bool) (v : Byte) : dataOut msb v = busBit msb 0 v := by
  cases msb <;> rfl

/-- A byte is its eight bits in either bus order. -/
theorem byte_eq_of_busBit {a c : Byte} (msb : Bool)
    (h : ∀ k < 8, busBit msb k a = busBit msb k c) : a = c := by
  apply BitVec.eq_of_getLsbD_eq
  intro k hk
  cases msb with
  | true =>
    have := h (8 - 1 - k) (by omega)
    rwa [busBit, busBit, if_pos rfl, if_pos rfl, show 8 - 1 - (8 - 1 - k) = k by omega] at this
  | false => exact h k hk

/-! ## One pulse -/

/-- The answer bit that the pulse taken in `s` draws (R152, R155). -/
def State.drawnBit (s : State) : Bool := s.answer (dataOut s.cfg.busMsbFirst s.sr)

theorem pulse_sr (s : State) : (pulse s).sr = shiftIn s.cfg.busMsbFirst s.sr s.drawnBit := by
  rw [pulse_eq]; rfl

theorem pulse_periph (s : State) :
    (pulse s).periph = s.periphAfterPulse (dataOut s.cfg.busMsbFirst s.sr) := by rw [pulse_eq]

theorem pulse_seen (s : State) :
    (pulse s).seen = .sentBit (dataOut s.cfg.busMsbFirst s.sr) :: s.seen := by rw [pulse_eq]

@[simp] theorem pulse_tickEnabled (s : State) : (pulse s).tickEnabled = s.tickEnabled := by
  simp [State.tickEnabled]

theorem pulse_last (h : s.cnt + 1 = s.cfg.busW) (hworks : s.cfg.busFaulty = false) :
    (pulse s).cnt = 0 ∧ (pulse s).done = true := by
  rcases pulse_counts s with ⟨-, hcnt, hdone⟩ | ⟨hne, -, -⟩
  · exact ⟨hcnt, by rw [hdone, doneAfterLastPulse, hworks]; rfl⟩
  · exact absurd h hne

theorem pulse_not_last (h : s.cnt + 1 ≠ s.cfg.busW) :
    (pulse s).cnt = s.cnt + 1 ∧ (pulse s).done = s.done := by
  rcases pulse_counts s with ⟨heq, -, -⟩ | ⟨-, hcnt, hdone⟩
  · exact absurd heq h
  · exact ⟨hcnt, hdone⟩

theorem drawnBit_scripted {d : Bool} {rest : List Bool} (h : s.periph = .scripted (d :: rest)) :
    s.drawnBit = d ∧ (pulse s).periph = .scripted rest := by
  rw [pulse_periph]
  simp [State.drawnBit, State.answer, State.periphAfterPulse, h]

/-- Settles O36: the entering bit is the one drawn. -/
theorem pulseShiftsOneBitEachWay : Obligations.PulseShiftsOneBitEachWay := by
  unfold Obligations.PulseShiftsOneBitEachWay
  intro s
  refine ⟨pulse_seen s, ⟨s.drawnBit, fun k hk => ⟨fun hm => ?_, fun hm => ?_⟩, fun hm => ?_,
    fun hm => ?_, fun d rest hp => drawnBit_scripted hp⟩, fun hlast => ⟨?_, fun hworks => ?_⟩,
    pulse_not_last, ⟨_, _, _, _, _, pulse_frame s⟩⟩
  · rw [pulse_sr, hm, getLsbD_shiftIn_msbFirst _ _ (by omega), if_neg (by omega)]
    rfl
  · rw [pulse_sr, hm, getLsbD_shiftIn_lsbFirst _ _ (by omega), if_neg (by omega)]
  · rw [pulse_sr, hm, getLsbD_shiftIn_msbFirst _ _ (by omega), if_pos rfl]
  · rw [pulse_sr, hm, getLsbD_shiftIn_lsbFirst _ _ (by omega), if_pos rfl]
  · rw [pulse_eq]
    simp [hlast]
  · exact (pulse_last hlast hworks).2

/-! ## Pulses in a row -/

/-- `t` is `s` but for the bus peripheral and the attached device: what pulses move (R152). -/
def State.SameButBus (s t : State) : Prop :=
  t = { s with sr := t.sr, cnt := t.cnt, done := t.done, periph := t.periph, seen := t.seen }

theorem State.SameButBus.trans (hst : s.SameButBus t) (htu : t.SameButBus u) :
    s.SameButBus u := by
  unfold State.SameButBus at *
  rw [htu, hst]

theorem sameButBus_repeat_pulse (k : Nat) (s : State) : s.SameButBus (repeatStep pulse k s) := by
  induction k with
  | zero => rfl
  | succ k ih =>
    rw [repeatStep_succ]
    exact ih.trans (pulse_frame _)

@[simp] theorem repeat_pulse_cfg (k : Nat) (s : State) : (repeatStep pulse k s).cfg = s.cfg := by
  rw [sameButBus_repeat_pulse k s]

@[simp] theorem repeat_pulse_phase (k : Nat) (s : State) :
    (repeatStep pulse k s).phase = s.phase := by rw [sameButBus_repeat_pulse k s]

@[simp] theorem repeat_pulse_idx (k : Nat) (s : State) : (repeatStep pulse k s).idx = s.idx := by
  rw [sameButBus_repeat_pulse k s]

@[simp] theorem repeat_pulse_cs (k : Nat) (s : State) : (repeatStep pulse k s).cs = s.cs := by
  rw [sameButBus_repeat_pulse k s]

@[simp] theorem repeat_pulse_tickEnabled (k : Nat) (s : State) :
    (repeatStep pulse k s).tickEnabled = s.tickEnabled := by
  rw [sameButBus_repeat_pulse k s]; rfl

/-- The bits not yet sent have moved up by one position per pulse (R152). -/
theorem busBit_repeat_pulse_unsent (s : State) (h : j + k < 8) :
    busBit s.cfg.busMsbFirst j (repeatStep pulse k s).sr =
      busBit s.cfg.busMsbFirst (j + k) s.sr := by
  induction k generalizing j with
  | zero => rfl
  | succ k ih =>
    rw [repeatStep_succ, pulse_sr, repeat_pulse_cfg, busBit_shiftIn _ _ _ (by omega),
      if_neg (by omega), ih (by omega), Nat.add_assoc, Nat.add_comm 1 k]

/-- The bits drawn so far stand in the last positions, in order (R152). -/
theorem busBit_repeat_pulse_drawn (s : State) (hj : j < k) (hk : k ≤ 8) :
    busBit s.cfg.busMsbFirst (8 - k + j) (repeatStep pulse k s).sr =
      (repeatStep pulse j s).drawnBit := by
  induction k with
  | zero => omega
  | succ k ih =>
    rw [repeatStep_succ, pulse_sr, repeat_pulse_cfg, busBit_shiftIn _ _ _ (by omega)]
    by_cases hlast : j = k
    · rw [if_pos (by omega), hlast]
    · rw [if_neg (by omega), show 8 - (k + 1) + j + 1 = 8 - k + j by omega]
      exact ih (by omega) (by omega)

/-- After eight pulses the register holds the eight bits drawn. -/
theorem busBit_eight_pulses (s : State) (hk : k < 8) :
    busBit s.cfg.busMsbFirst k (repeatStep pulse 8 s).sr = (repeatStep pulse k s).drawnBit := by
  have := busBit_repeat_pulse_drawn s hk (Nat.le_refl 8)
  rwa [Nat.sub_self, Nat.zero_add] at this

/-- The bits of byte `b` that the first `k` pulses send, newest first (R63). -/
def sentBits (msb : Bool) (b : Byte) (k : Nat) : List Config.BusEvent :=
  (List.range k).reverse.map fun j => .sentBit (busBit msb j b)

/-- The bit the next pulse sends is that of its own position (R152). -/
theorem dataOut_repeat_pulse (s : State) (hk : k < 8) :
    dataOut s.cfg.busMsbFirst (repeatStep pulse k s).sr = busBit s.cfg.busMsbFirst k s.sr := by
  rw [dataOut_eq_busBit, busBit_repeat_pulse_unsent s (by omega), Nat.zero_add]

theorem seen_repeat_pulse (s : State) (hk : k ≤ 8) :
    (repeatStep pulse k s).seen = sentBits s.cfg.busMsbFirst s.sr k ++ s.seen := by
  induction k with
  | zero => rfl
  | succ k ih =>
    rw [repeatStep_succ, pulse_seen, repeat_pulse_cfg, dataOut_repeat_pulse s (by omega),
      ih (by omega), sentBits, sentBits, List.range_succ, List.reverse_concat]
    rfl

/-- The pulse loop is about to start on working hardware (R153, R157). -/
structure State.LoopStart (s : State) : Prop where
  coherent : s.cfg.WidthsCoherent
  works : s.cfg.busFaulty = false
  cnt : s.cnt = 0
  done : s.done = false

theorem State.LoopStart.busW (h : s.LoopStart) : s.cfg.busW = 8 := by
  obtain ⟨-, hbusW, -⟩ := h.coherent
  exact hbusW

/-- Before the eighth pulse the flag is clear, and the count is that of the pulses (R153). -/
theorem State.LoopStart.repeat_pulse (h : s.LoopStart) (hk : k < 8) :
    (repeatStep pulse k s).cnt = k ∧ (repeatStep pulse k s).done = false := by
  induction k with
  | zero => exact ⟨h.cnt, h.done⟩
  | succ k ih =>
    obtain ⟨hcnt, hdone⟩ := ih (by omega)
    have hne : (repeatStep pulse k s).cnt + 1 ≠ (repeatStep pulse k s).cfg.busW := by
      rw [hcnt, repeat_pulse_cfg, h.busW]; omega
    obtain ⟨hcnt', hdone'⟩ := pulse_not_last hne
    rw [repeatStep_succ, hcnt', hdone', hcnt]
    exact ⟨rfl, hdone⟩

/-- The eighth pulse sets the flag and wraps the count (R153). -/
theorem State.LoopStart.eight_pulses (h : s.LoopStart) :
    (repeatStep pulse 8 s).cnt = 0 ∧ (repeatStep pulse 8 s).done = true := by
  rw [repeatStep_succ]
  refine pulse_last ?_ (by rw [repeat_pulse_cfg]; exact h.works)
  rw [(h.repeat_pulse (by omega)).1, repeat_pulse_cfg, h.busW]

/-- A listed peripheral answers each pulse with the next bit of its list (log 7). -/
theorem repeat_pulse_scripted {answers : List Bool} (hp : s.periph = .scripted answers)
    (hk : k ≤ answers.length) :
    (repeatStep pulse k s).periph = .scripted (answers.drop k) ∧
      ∀ j < k, answers[j]? = some (repeatStep pulse j s).drawnBit := by
  induction k with
  | zero => exact ⟨hp, fun j hj => absurd hj (Nat.not_lt_zero j)⟩
  | succ k ih =>
    obtain ⟨hperiph, hanswers⟩ := ih (by omega)
    rw [List.drop_eq_getElem_cons (by omega)] at hperiph
    obtain ⟨hbit, hrest⟩ := drawnBit_scripted hperiph
    refine ⟨by rw [repeatStep_succ, hrest], fun j hj => ?_⟩
    by_cases hlast : j = k
    · subst hlast
      rw [hbit]
      exact List.getElem?_eq_getElem (by omega)
    · exact hanswers j (by omega)

/-- A listed peripheral's first eight answers are the byte taken in. -/
theorem eight_pulses_scripted {answers : List Bool} (hp : s.periph = .scripted answers)
    (hlen : 8 ≤ answers.length) (hk : k < 8) :
    answers[k]? = some (busBit s.cfg.busMsbFirst k (repeatStep pulse 8 s).sr) := by
  rw [busBit_eight_pulses s hk]
  exact (repeat_pulse_scripted hp hlen).2 k hk

/-- Settles O37: the counts, the bits sent and the bits drawn of eight pulses. -/
theorem eightPulsesExchangeOneByte : Obligations.EightPulsesExchangeOneByte := by
  unfold Obligations.EightPulsesExchangeOneByte
  intro s hc hcnt hdone hworks
  have hstart : s.LoopStart := ⟨hc, hworks, hcnt, hdone⟩
  obtain ⟨hcnt', hdone'⟩ := hstart.eight_pulses
  refine ⟨hcnt', hdone', fun k hk => (hstart.repeat_pulse hk).2, fun k hk => ?_, ?_,
    fun answers hlen hp k hk => eight_pulses_scripted hp hlen hk⟩
  · rw [seen_repeat_pulse s (Nat.le_refl 8)]
    interval_cases k <;> rfl
  · rw [seen_repeat_pulse s (Nat.le_refl 8)]
    rfl

/-! ## The phases of `XFER` in a row -/

/-- Phases of one command in a row split at any of their points. -/
theorem execRepeat_add (h : execRepeat i m s = .next t) :
    execRepeat i (m + n) s = execRepeat i n t := by
  induction m generalizing s with
  | zero => cases h; rw [Nat.zero_add]
  | succ m ih =>
    rw [execRepeat] at h
    split at h
    · next u hu =>
      rw [Nat.succ_add, execRepeat_succ_of_next hu]
      exact ih h
    · cases h
    · cases h

theorem execRepeat_one (h : exec i s = .next t) : execRepeat i 1 s = .next t :=
  execRepeat_succ_of_next h

/-- The state in which `XFER b` begins its pulses: loaded and cleared (R157). -/
def State.beforePulses (s : State) (b : Byte) : State :=
  { s with sr := b, done := false, cnt := 0, phase := .x3 }

theorem execRepeat_xfer_start (he : s.tickEnabled = false) (hp : s.phase = .x1) :
    execRepeat (.xfer b) 2 s = .next (s.beforePulses b) := by
  rw [execRepeat_succ_of_next (exec_xfer_load he hp)]
  exact execRepeat_one (exec_xfer_clear he rfl)

/-- The first seven pulses stay in the loop (R157). -/
theorem State.LoopStart.execRepeat_pulses (h : s.LoopStart) (he : s.tickEnabled = false)
    (hp : s.phase = .x3) (hk : k < 8) :
    execRepeat (.xfer b) k s = .next (repeatStep pulse k s) := by
  induction k with
  | zero => rfl
  | succ k ih =>
    have hdone := (h.repeat_pulse hk).2
    rw [repeatStep_succ] at hdone
    rw [execRepeat_add (ih (by omega)), repeatStep_succ]
    refine execRepeat_one ((exec_xfer_pulse (by simpa using he) (by simpa using hp)).trans ?_)
    rw [if_neg (by simp [hdone])]

/-- The eighth pulse leaves it (R157). -/
theorem State.LoopStart.execRepeat_eight (h : s.LoopStart) (he : s.tickEnabled = false)
    (hp : s.phase = .x3) :
    execRepeat (.xfer b) 8 s = .next ((repeatStep pulse 8 s).goto .x4) := by
  have hdone := h.eight_pulses.2
  have hlast : repeatStep pulse 8 s = pulse (repeatStep pulse 7 s) := repeatStep_succ pulse 7 s
  rw [hlast] at hdone ⊢
  rw [execRepeat_add (m := 7) (n := 1) (h.execRepeat_pulses he hp (by omega))]
  refine execRepeat_one ((exec_xfer_pulse (by simpa using he) (by simpa using hp)).trans ?_)
  rw [if_pos hdone]

/-- `XFER` is about to start on working hardware, with no `TICK` enabled (R157). -/
structure State.XferStart (s : State) : Prop where
  coherent : s.cfg.WidthsCoherent
  quiet : s.tickEnabled = false
  phase : s.phase = .x1
  works : s.cfg.busFaulty = false

theorem State.XferStart.loopStart (h : s.XferStart) (b : Byte) : (s.beforePulses b).LoopStart :=
  ⟨h.coherent, h.works, rfl, rfl⟩

/-- `q` is what the eight pulses of `XFER b` leave (R158). It is named by an equation, so that no
proof computes the pulses. -/
def State.Exchanged (s : State) (b : Byte) (q : State) : Prop :=
  repeatStep pulse 8 (s.beforePulses b) = q

theorem State.Exchanged.sameButBus {q : State} (hq : s.Exchanged b q) :
    (s.beforePulses b).SameButBus q := hq ▸ sameButBus_repeat_pulse 8 _

theorem State.Exchanged.busBit {q : State} (hq : s.Exchanged b q) (hk : k < 8) :
    busBit s.cfg.busMsbFirst k q.sr = (repeatStep pulse k (s.beforePulses b)).drawnBit :=
  hq ▸ busBit_eight_pulses (s.beforePulses b) hk

theorem State.Exchanged.seen {q : State} (hq : s.Exchanged b q) :
    q.seen = sentBits s.cfg.busMsbFirst b 8 ++ s.seen :=
  hq ▸ seen_repeat_pulse (s.beforePulses b) (Nat.le_refl 8)

theorem State.XferStart.counts {q : State} (h : s.XferStart) (hq : s.Exchanged b q) :
    q.cnt = 0 ∧ q.done = true := hq ▸ (h.loopStart b).eight_pulses

theorem State.XferStart.execRepeat_ten {q : State} (h : s.XferStart) (hq : s.Exchanged b q) :
    execRepeat (.xfer b) 10 s = .next (q.goto .x4) := by
  rw [execRepeat_add (m := 2) (n := 8) (execRepeat_xfer_start h.quiet h.phase)]
  exact hq ▸ (h.loopStart b).execRepeat_eight h.quiet rfl

/-- The eleventh phase returns what the eight pulses took in (R157, R158). -/
theorem State.XferStart.execRepeat_eleven {q : State} (h : s.XferStart) (hq : s.Exchanged b q) :
    execRepeat (.xfer b) 11 s = .next { q with
      ret := .byte q.sr, idx := s.idx + 1, phase := arrivalPhase s.prog (s.idx + 1) } := by
  have hframe := hq.sameButBus
  have hquiet : (q.goto .x4).tickEnabled = false := by
    rw [hframe]
    exact h.quiet
  rw [execRepeat_add (m := 10) (n := 1) (h.execRepeat_ten hq),
    execRepeat_one (exec_xfer_return hquiet rfl), hframe]
  rfl

/-- Before the eleventh phase the command is not complete (R158). -/
theorem State.XferStart.execRepeat_before (h : s.XferStart) (b : Byte) (hn : n < 11) :
    ∃ t, execRepeat (.xfer b) n s = .next t ∧ t.idx = s.idx := by
  by_cases hten : n = 10
  · subst hten
    have hq : s.Exchanged b _ := rfl
    refine ⟨_, h.execRepeat_ten hq, ?_⟩
    rw [goto_idx, hq.sameButBus]
    rfl
  match n with
  | 0 => exact ⟨s, rfl, rfl⟩
  | 1 => exact ⟨_, execRepeat_one (exec_xfer_load h.quiet h.phase), rfl⟩
  | k + 2 =>
    refine ⟨repeatStep pulse k (s.beforePulses b), ?_, by rw [repeat_pulse_idx]; rfl⟩
    rw [Nat.add_comm, execRepeat_add (execRepeat_xfer_start h.quiet h.phase)]
    exact (h.loopStart b).execRepeat_pulses h.quiet rfl (by omega)

/-- Settles O38: eight pulses between the load and the return. -/
theorem xferReturnsAnsweredByteInElevenPhases :
    Obligations.XferReturnsAnsweredByteInElevenPhases := by
  unfold Obligations.XferReturnsAnsweredByteInElevenPhases
  intro b s hc he hp hworks
  have h : s.XferStart := ⟨hc, he, hp, hworks⟩
  obtain ⟨q, hq⟩ : ∃ q, s.Exchanged b q := ⟨_, rfl⟩
  obtain ⟨hcnt, hdone⟩ := h.counts hq
  refine ⟨q.sr, q.periph, sentBits s.cfg.busMsbFirst b 8, (h.execRepeat_eleven hq).trans ?_,
    fun n hn => h.execRepeat_before b hn, rfl, fun answers hlen hscript => ⟨?_, fun k hk => ?_⟩⟩
  · rw [hq.sameButBus, hcnt, hdone, hq.seen]
    rfl
  · exact hq ▸ (repeat_pulse_scripted (s := s.beforePulses b) hscript hlen).1
  · exact hq ▸ eight_pulses_scripted (s := s.beforePulses b) hscript hlen hk

/-- The echo double stays what it is and answers each bit with itself (R156). -/
theorem repeat_pulse_echo (hp : s.periph = .echo) (k : Nat) :
    (repeatStep pulse k s).periph = .echo := by
  induction k with
  | zero => exact hp
  | succ k ih =>
    rw [repeatStep_succ, pulse_periph]
    simp [State.periphAfterPulse, ih]

theorem eight_pulses_echo (hp : s.periph = .echo) : (repeatStep pulse 8 s).sr = s.sr := by
  refine byte_eq_of_busBit s.cfg.busMsbFirst fun k hk => ?_
  rw [busBit_eight_pulses s hk, State.drawnBit, repeat_pulse_cfg, dataOut_repeat_pulse s hk]
  simp [State.answer, repeat_pulse_echo hp k]

/-- Settles O39: the bits drawn are the bits sent. -/
theorem echoTransferReturnsItsOperand : Obligations.EchoTransferReturnsItsOperand := by
  unfold Obligations.EchoTransferReturnsItsOperand
  intro b s hc he hp hworks hecho
  obtain ⟨q, hq⟩ : ∃ q, s.Exchanged b q := ⟨_, rfl⟩
  have hsr : q.sr = b := hq ▸ eight_pulses_echo (s := s.beforePulses b) hecho
  exact ⟨_, State.XferStart.execRepeat_eleven ⟨hc, he, hp, hworks⟩ hq, congrArg Ret.byte hsr, hsr,
    rfl⟩

/-- Settles O40: on faulty hardware no pulse sets the flag, so each stays in the loop. -/
theorem faultyBusHangsTransfer : Obligations.FaultyBusHangsTransfer := by
  unfold Obligations.FaultyBusHangsTransfer
  intro n b
  induction n with
  | zero => exact fun s _ hp hdone _ => ⟨s, rfl, hp, hdone, rfl⟩
  | succ n ih =>
    intro s he hp hdone hfaulty
    have hclear : (pulse s).done = false := by
      rcases pulse_counts s with ⟨-, -, hd⟩ | ⟨-, -, hd⟩
      · rw [hd, doneAfterLastPulse, hfaulty, if_pos rfl, hdone]
      · rw [hd, hdone]
    have hexec : exec (.xfer b) s = .next (pulse s) := by
      rw [exec_xfer_pulse he hp, if_neg (by simp [hclear])]
    obtain ⟨t, ht, hpt, hdt, hidx⟩ :=
      ih (pulse s) (by simpa using he) (by simpa using hp) hclear (by simpa using hfaulty)
    exact ⟨t, (execRepeat_succ_of_next hexec).trans ht, hpt, hdt, by simpa using hidx⟩

/-! ## The handler beside the bus (R161) -/

/-- `s` with the transmitter and the Time Base of `u`: what the handler's body writes (R214). -/
def State.withHandlerOf (s u : State) : State :=
  { s with txLine := u.txLine, shift := u.shift, busy := u.busy, bitIdx := u.bitIdx,
           millis := u.millis, acc := u.acc }

/-- `s` with the bus, the position and the returned value of `u`: what `XFER` writes (R214). -/
def State.withTransferOf (s u : State) : State :=
  { s with sr := u.sr, done := u.done, cnt := u.cnt, periph := u.periph, seen := u.seen,
           idx := u.idx, phase := u.phase, ret := u.ret }

theorem tickBody_eq_withHandlerOf (s : State) : tickBody s = s.withHandlerOf (tickBody s) := by
  rw [tickBody_frame]
  rfl

/-- The handler's body neither reads nor writes what `XFER` writes (R161). -/
theorem tickBody_withTransferOf (s u : State) :
    tickBody (s.withTransferOf u) = (tickBody s).withTransferOf u := by
  have huart : uartStep (s.withTransferOf u) = (uartStep s).withTransferOf u := by
    simp only [uartStep, apply_ite (State.withTransferOf · u)]
    rfl
  rw [tickBody, huart]
  rfl

theorem pulse_withHandlerOf (s u : State) :
    pulse (s.withHandlerOf u) = (pulse s).withHandlerOf u := by
  rw [pulse_eq, pulse_eq s]
  rfl

/-- A phase of `XFER` neither reads nor writes what the handler's body writes (R161). -/
theorem execXfer_withHandlerOf (u : State) (h : execXfer b s = .next t) :
    exec (.xfer b) (s.withHandlerOf u) = .next (t.withHandlerOf u) := by
  obtain ⟨he, hcase⟩ := execXfer_next h
  have he' : (s.withHandlerOf u).tickEnabled = false := he
  rcases hcase with ⟨hp, rfl⟩ | ⟨hp, rfl⟩ | ⟨hp, hd, rfl⟩ | ⟨hp, hd, rfl⟩ | ⟨hp, rfl⟩
  · exact exec_xfer_load he' hp
  · exact exec_xfer_clear he' hp
  · have hd' : (pulse (s.withHandlerOf u)).done = true := by rw [pulse_withHandlerOf]; exact hd
    rw [exec_xfer_pulse he' hp, if_pos hd', pulse_withHandlerOf]
    rfl
  · have hd' : (pulse (s.withHandlerOf u)).done = false := by rw [pulse_withHandlerOf]; exact hd
    rw [exec_xfer_pulse he' hp, if_neg (by simp [hd']), pulse_withHandlerOf]
  · exact exec_xfer_return he' hp

/-- Settles O41: each side writes what the other neither reads nor writes. -/
theorem tickCommutesWithTransfer : Obligations.TickCommutesWithTransfer := by
  unfold Obligations.TickCommutesWithTransfer
  intro b s t h
  have hframe : t = s.withTransferOf t := execXfer_frame h
  have hbody : tickBody t = t.withHandlerOf (tickBody s) := by
    rw [hframe, tickBody_withTransferOf, tickBody_eq_withHandlerOf s]
    rfl
  rw [tickBody_eq_withHandlerOf s, hbody]
  exact execXfer_withHandlerOf (tickBody s) h

end Sys2Proof.Machine

/-!
PROOFS. Noninterference of the bus (spec 43_bus_transfer.md sections 1 and 2): what the bus carries
reaches nothing but the shift register, the peripheral and the value `XFER` returns.
-/

namespace Sys2Proof.Machine

open Sys2Proof

variable {s t : State} {i : Instr} {b : Byte} {n : Nat} {p : Peripheral}
  {e : List Config.BusEvent} {r : Byte} {v v' : Ret}

/-! ## Two states that differ only in what the bus carries -/

/-- `s` with another peripheral, another past of it, another shift register and another returned
value. -/
def State.withBusData (s : State) (p : Peripheral) (e : List Config.BusEvent) (r : Byte) (v : Ret) :
    State := { s with periph := p, seen := e, sr := r, ret := v }

/-- How the returned values compare after the same operation `i` from `s` to `t` and from `s` with
other bus data `r`, `v`: `XFER` returns its own register, `IRQOFF` and `NOW` return the same value,
and every other step leaves each alone (log 15). -/
def RetCompares (i : Instr) (s t : State) (r : Byte) (v v' : Ret) : Prop :=
  ((∃ b, i = .xfer b) ∧ s.phase = .x4 ∧ t.ret = .byte s.sr ∧ v' = .byte r) ∨
  ((i = .irqoff ∨ i = .now ∧ s.phase = .n3) ∧ v' = t.ret) ∨
  (¬((∃ b, i = .xfer b) ∧ s.phase = .x4) ∧ i ≠ .irqoff ∧ ¬(i = .now ∧ s.phase = .n3) ∧
    t.ret = s.ret ∧ v' = v)

/-- An operation that returns nothing leaves both returned values alone. -/
theorem retCompares_of_kept (hx : ¬((∃ b, i = .xfer b) ∧ s.phase = .x4)) (hoff : i ≠ .irqoff)
    (hnow : ¬(i = .now ∧ s.phase = .n3)) (hret : t.ret = s.ret) : RetCompares i s t r v v :=
  .inr (.inr ⟨hx, hoff, hnow, hret, rfl⟩)

/-- From `s` with other bus data the same operation completes, and the results differ only in what
the bus carries. -/
def SameButBusData (i : Instr) (s t : State) (p : Peripheral) (e : List Config.BusEvent) (r : Byte)
    (v : Ret) : Prop :=
  ∃ p' e' r' v', exec i (s.withBusData p e r v) = .next (t.withBusData p' e' r' v') ∧
    RetCompares i s t r v v'

/-! ## Every operation -/

/-- What a pulse counts does not depend on what it carries (R153). -/
theorem pulse_withBusData (s : State) (p : Peripheral) (e : List Config.BusEvent) (r : Byte)
    (v : Ret) : ∃ p' e' r', pulse (s.withBusData p e r v) = (pulse s).withBusData p' e' r' v := by
  rw [pulse_eq, pulse_eq s]
  exact ⟨_, _, _, rfl⟩

theorem execSendb_sameButBusData (h : execSendb b s = .next t) :
    SameButBusData (.sendb b) s t p e r v := by
  obtain ⟨he, hcase⟩ := execSendb_next h
  have he' : (s.withBusData p e r v).tickEnabled = false := he
  rcases hcase with ⟨hp, hb, rfl⟩ | ⟨hp, hb, rfl⟩ | ⟨hp, hb, rfl⟩
  · exact ⟨p, e, r, v, exec_sendb_of_busy he' hp hb,
      retCompares_of_kept (by simp) (by simp) (by simp) rfl⟩
  · exact ⟨p, e, r, v, exec_sendb_of_idle he' hp hb,
      retCompares_of_kept (by simp) (by simp) (by simp) rfl⟩
  · exact ⟨p, e, r, v, exec_sendb_load he' hp hb,
      retCompares_of_kept (by simp) (by simp) (by simp) rfl⟩

theorem execXfer_sameButBusData (h : execXfer b s = .next t) :
    SameButBusData (.xfer b) s t p e r v := by
  obtain ⟨he, hcase⟩ := execXfer_next h
  have he' : (s.withBusData p e r v).tickEnabled = false := he
  obtain ⟨p', e', r', hpulse⟩ := pulse_withBusData s p e r v
  have hdone : (pulse (s.withBusData p e r v)).done = (pulse s).done := by rw [hpulse]; rfl
  rcases hcase with ⟨hp, rfl⟩ | ⟨hp, rfl⟩ | ⟨hp, hd, rfl⟩ | ⟨hp, hd, rfl⟩ | ⟨hp, rfl⟩
  · exact ⟨p, e, b, v, exec_xfer_load he' hp,
      retCompares_of_kept (by simp [hp]) (by simp) (by simp) rfl⟩
  · exact ⟨p, e, r, v, exec_xfer_clear he' hp,
      retCompares_of_kept (by simp [hp]) (by simp) (by simp) rfl⟩
  · refine ⟨p', e', r', v, (exec_xfer_pulse he' hp).trans ?_,
      retCompares_of_kept (by simp [hp]) (by simp) (by simp) (by simp)⟩
    rw [if_pos (hdone.trans hd), hpulse]
    rfl
  · refine ⟨p', e', r', v, (exec_xfer_pulse he' hp).trans ?_,
      retCompares_of_kept (by simp [hp]) (by simp) (by simp) (by simp)⟩
    rw [if_neg (by simp [hdone, hd]), hpulse]
  · exact ⟨p, e, r, .byte r, exec_xfer_return he' hp, .inl ⟨⟨b, rfl⟩, hp, rfl, rfl⟩⟩

theorem execNow_sameButBusData (h : execNow s = .next t) : SameButBusData .now s t p e r v := by
  obtain ⟨he, hcase⟩ := execNow_next h
  have he' : (s.withBusData p e r v).tickEnabled = false := he
  rcases hcase with ⟨hp, rfl⟩ | ⟨hp, rfl⟩ | ⟨hp, rfl⟩
  · exact ⟨p, e, r, v, exec_now_save he' hp,
      retCompares_of_kept (by simp) (by simp) (by simp [hp]) rfl⟩
  · exact ⟨p, e, r, v, exec_now_read he' hp,
      retCompares_of_kept (by simp) (by simp) (by simp [hp]) rfl⟩
  · exact ⟨p, e, r, .millis s.v, exec_now_restore he' hp, .inr (.inl ⟨.inr ⟨rfl, hp⟩, rfl⟩)⟩

/-- The handler's body neither reads nor writes what the bus carries (40_tick.md R90). -/
theorem tickBody_withBusData (s : State) (p : Peripheral) (e : List Config.BusEvent) (r : Byte)
    (v : Ret) : tickBody (s.withBusData p e r v) = (tickBody s).withBusData p e r v := by
  have huart : uartStep (s.withBusData p e r v) = (uartStep s).withBusData p e r v := by
    simp only [uartStep, apply_ite (State.withBusData · p e r v)]
    rfl
  rw [tickBody, huart]
  rfl

theorem exec_sameButBusData (h : exec i s = .next t) : SameButBusData i s t p e r v := by
  cases i with
  | sendb b => exact execSendb_sameButBusData h
  | xfer b => exact execXfer_sameButBusData h
  | now => exact execNow_sameButBusData h
  | irqoff =>
    obtain ⟨he, hp, rfl⟩ := execIrqoff_next.1 h
    exact ⟨p, e, r, .flag s.ie, exec_irqoff_of_zero he hp, .inr (.inl ⟨.inl rfl, rfl⟩)⟩
  | irqrst f =>
    obtain ⟨he, hp, rfl⟩ := execIrqrst_next.1 h
    exact ⟨p, e, r, v, exec_irqrst_of_zero f he hp,
      retCompares_of_kept (by simp) (by simp) (by simp) rfl⟩
  | cson =>
    obtain ⟨he, hp, rfl⟩ := execCson_next.1 h
    exact ⟨_, _, r, v, exec_cson_of_zero he hp,
      retCompares_of_kept (by simp) (by simp) (by simp) rfl⟩
  | csoff =>
    obtain ⟨he, hp, rfl⟩ := execCsoff_next.1 h
    exact ⟨_, _, r, v, exec_csoff_of_zero he hp,
      retCompares_of_kept (by simp) (by simp) (by simp) rfl⟩
  | enon =>
    obtain ⟨he, hp, rfl⟩ := execEnon_next.1 h
    exact ⟨_, _, r, v, exec_enon_of_zero he hp,
      retCompares_of_kept (by simp) (by simp) (by simp) rfl⟩
  | enoff =>
    obtain ⟨he, hp, rfl⟩ := execEnoff_next.1 h
    exact ⟨_, _, r, v, exec_enoff_of_zero he hp,
      retCompares_of_kept (by simp) (by simp) (by simp) rfl⟩
  | delay =>
    obtain ⟨he, hp, rfl⟩ := execDelay_next.1 h
    exact ⟨p, e, r, v, exec_delay_of_zero he hp,
      retCompares_of_kept (by simp) (by simp) (by simp) rfl⟩
  | tick =>
    obtain ⟨he, rfl⟩ := execTick_next.1 h
    refine ⟨p, e, r, v, execTick_next.2 ⟨he, ?_⟩,
      retCompares_of_kept (by simp) (by simp) (by simp) (by simp)⟩
    exact (tickBody_withBusData s.interruptEntry p e r v).symm
  | expire =>
    obtain ⟨he, rfl⟩ := execExpire_next.1 h
    exact ⟨p, e, r, v, exec_expire_of_disabled he,
      retCompares_of_kept (by simp) (by simp) (by simp) rfl⟩

/-! ## Every step and every run -/

/-- The choice of the next step does not see what the bus carries. -/
theorem pick_withBusData (s : State) (p : Peripheral) (e : List Config.BusEvent) (r : Byte)
    (v : Ret) : (s.withBusData p e r v).pick = s.pick := rfl

theorem nextOp_withBusData (s : State) (p : Peripheral) (e : List Config.BusEvent) (r : Byte)
    (v : Ret) : (s.withBusData p e r v).nextOp = s.nextOp := rfl

theorem picked_withBusData (s : State) (p : Peripheral) (e : List Config.BusEvent) (r : Byte)
    (v : Ret) : (s.withBusData p e r v).picked = s.picked.withBusData p e r v := by
  have hchoice : (s.withBusData p e r v).choiceMade = s.choiceMade.withBusData p e r v := by
    unfold State.choiceMade
    simp only [State.withBusData]
    cases s.sched <;> rfl
  unfold State.picked
  rw [hchoice, show (s.withBusData p e r v).tickEnabled = s.tickEnabled from rfl,
    apply_ite (State.withBusData · p e r v)]

theorem step_sameButBusData (h : step s = .next t) :
    ∃ i p' e' r' v', s.nextOp = some i ∧
      step (s.withBusData p e r v) = .next (t.withBusData p' e' r' v') ∧
      RetCompares i s t r v v' := by
  obtain ⟨i, hpick, hexec⟩ := step_next h
  obtain ⟨p', e', r', v', hexec', hret⟩ :=
    exec_sameButBusData (p := p) (e := e) (r := r) (v := v) hexec
  refine ⟨i, p', e', r', v', nextOp_of_pick hpick, ?_, ?_⟩
  · rw [step_of_pick ((pick_withBusData s p e r v).trans hpick), picked_withBusData, hexec']
  · simpa only [RetCompares, picked_phase, picked_sr, picked_ret] using hret

theorem run_sameButBusData (h : run n s = .next t) :
    ∃ p' e' r' v', run n (s.withBusData p e r v) = .next (t.withBusData p' e' r' v') ∧
      runOps n (s.withBusData p e r v) = runOps n s ∧
      lineTrace n (s.withBusData p e r v) = lineTrace n s := by
  induction n generalizing s p e r v with
  | zero => cases h; exact ⟨p, e, r, v, rfl, rfl, rfl⟩
  | succ n ih =>
    obtain ⟨u, hu, hrest⟩ := run_succ_next.1 h
    obtain ⟨i, p₁, e₁, r₁, v₁, hi, hu', -⟩ :=
      step_sameButBusData (p := p) (e := e) (r := r) (v := v) hu
    obtain ⟨p', e', r', v', hrun, hops, hline⟩ := ih (p := p₁) (e := e₁) (r := r₁) (v := v₁) hrest
    have hi' : (s.withBusData p e r v).nextOp = some i := hi
    refine ⟨p', e', r', v', run_succ_next.2 ⟨_, hu', hrun⟩, ?_, ?_⟩
    · rw [runOps_succ hi' hu', runOps_succ hi hu, hops]
    · rw [lineTrace_succ hi' hu', lineTrace_succ hi hu, hline]
      rfl

/-- Settles O42: operation by operation, then along the run. -/
theorem busDataNeverLeaksIntoTheBlock : Obligations.BusDataNeverLeaksIntoTheBlock := by
  unfold Obligations.BusDataNeverLeaksIntoTheBlock
  refine ⟨fun s t p e r v h => ?_, fun n s t p e r v => run_sameButBusData⟩
  obtain ⟨i, p', e', r', v', hi, hstep, hret⟩ :=
    step_sameButBusData (p := p) (e := e) (r := r) (v := v) h
  refine ⟨p', e', r', v', hstep, nextOp_withBusData s p e r v, ?_⟩
  simpa only [RetCompares, hi, Option.some.injEq, ne_eq] using hret

end Sys2Proof.Machine

/-!
PROOFS. The register-model double (spec 45_sequencer_environment.md R203; log 8): a byte exchanged
with it bit by bit, the write-to-clear scenario, and the flush command.
-/

namespace Sys2Proof.Machine

open Sys2Proof

variable {s t : State} {b : Byte} {d m : RegModel} {mask : Byte} {k : Nat}

/-! ## The double's own operations -/

@[simp] theorem choose_byteCount (m : RegModel) (mask : Byte) :
    (m.choose mask).byteCount = m.byteCount := by rw [choose_frame]

@[simp] theorem choose_bitCount (m : RegModel) (mask : Byte) :
    (m.choose mask).bitCount = m.bitCount := by rw [choose_frame]

@[simp] theorem choose_reply (m : RegModel) (mask : Byte) :
    (m.choose mask).reply = m.reply := by rw [choose_frame]

/-- A bit that completes no byte is shifted in (R203, item 1). -/
theorem takeBit_not_last {busW : Nat} (msb c : Bool) (h : m.bitCount + 1 ≠ busW) :
    m.takeBit busW msb c =
      { m with partialByte := shiftIn msb m.partialByte c, bitCount := m.bitCount + 1 } := by
  simp [RegModel.takeBit, lastPulse, h]

/-- The last bit of a byte completes it (R203, item 1). -/
theorem takeBit_last {busW : Nat} (msb c : Bool) (h : m.bitCount + 1 = busW) :
    m.takeBit busW msb c = m.byteDone (shiftIn msb m.partialByte c) := by
  simp [RegModel.takeBit, lastPulse, h]

/-- The first byte of a transaction is kept as such and touches no status bit (R203, items 3 and
4). -/
theorem byteDone_first (h : m.byteCount = 0) :
    m.byteDone b = { m with byteCount := 1, partialByte := 0, bitCount := 0, firstByte := b,
                            txEmpty := m.txEmpty || b == m.table.cmdFlushTx } := if_pos h

/-- The byte after `WRITE|STATUS_REG` clears its bits of the status (R203, item 3). -/
theorem byteDone_write (h : m.byteCount = 1)
    (hfirst : m.firstByte = m.table.cmdWrite ||| m.table.regStatus) :
    m.byteDone b = { m with byteCount := 2, partialByte := 0, bitCount := 0,
                            status := m.status &&& ~~~b } := by
  rw [RegModel.byteDone, if_neg (by omega), if_pos ⟨h, hfirst⟩]

/-- The double after the flush command as the first byte of a transaction (R203, items 1 and 4). -/
def RegModel.flushed (m : RegModel) : RegModel :=
  { m with byteCount := 1, partialByte := 0, bitCount := 0, firstByte := m.table.cmdFlushTx,
           txEmpty := true }

/-- With no completion to come a flush transaction does nothing but empty the transmit buffer. -/
theorem select_byteDone_flush (mask : Byte) (h : m.armed = false) :
    (m.select mask).byteDone m.table.cmdFlushTx = m.flushed := by
  rw [RegModel.select, choose_idle mask h, byteDone_first rfl]
  simp [RegModel.flushed]

/-- Settles O51: a second flush finds nothing to change. -/
theorem flushIsIdempotent : Obligations.FlushIsIdempotent := by
  unfold Obligations.FlushIsIdempotent
  intro d mask h
  rw [select_byteDone_flush mask h]
  exact ⟨rfl, select_byteDone_flush (m := d.flushed) mask h⟩

/-! ## Pulses with the double selected -/

theorem pulse_periph_double (hp : s.periph = .regModel m) (hcs : s.cs = true) :
    (pulse s).periph = .regModel ((m.choose s.cfg.pollMask).exchange s.cfg.busW s.cfg.busMsbFirst
      (dataOut s.cfg.busMsbFirst s.sr)) := by
  rw [pulse_periph]
  simp [State.periphAfterPulse, hp, hcs]

/-- During the first byte of a transaction the double answers its reply byte (R203, item 2). -/
theorem drawnBit_double (hp : s.periph = .regModel m) (hcs : s.cs = true)
    (hfirst : m.byteCount = 0) :
    s.drawnBit = busBit s.cfg.busMsbFirst m.bitCount (m.choose s.cfg.pollMask).replyByte := by
  simp [State.drawnBit, State.answer, hp, hcs, hfirst]

/-- The double stands `k` bits into the first byte of a transaction, which it answers with `reply`
(R203, item 2). -/
structure RegModel.Answers (m : RegModel) (mask reply : Byte) (k : Nat) : Prop where
  firstByte : m.byteCount = 0
  bits : m.bitCount = k
  reply : (m.choose mask).replyByte = reply

/-- Past the first bit of a transaction the byte kept is answered (R203, item 2). -/
theorem replyByte_later (h : m.bitCount ≠ 0) : m.replyByte = m.reply := by
  simp [RegModel.replyByte, RegModel.atFirstBit, h]

/-- Once a bit has been exchanged the reply is the byte kept, whatever the double chooses (R203,
items 2 and 5). -/
theorem RegModel.Answers.exchange {reply : Byte} {busW : Nat} (h : m.Answers mask reply k)
    (hk : k + 1 ≠ busW) (msb c : Bool) :
    ((m.choose mask).exchange busW msb c).Answers mask reply (k + 1) := by
  have hbits : (m.choose mask).bitCount = k := by rw [choose_bitCount, h.bits]
  have hfirst : (m.choose mask).byteCount = 0 := by rw [choose_byteCount, h.firstByte]
  rw [RegModel.exchange, takeBit_not_last msb c (by simpa only [hbits] using hk)]
  refine ⟨hfirst, congrArg (· + 1) hbits, ?_⟩
  rw [replyByte_later (by simp), choose_reply]
  exact h.reply

/-- Along the pulses of a first byte the double answers the same byte. -/
theorem repeat_pulse_answers {reply : Byte} (hbusW : s.cfg.busW = 8) (hcs : s.cs = true)
    (hp : s.periph = .regModel d) (hd : d.Answers s.cfg.pollMask reply 0) (hk : k < 8) :
    ∃ m, (repeatStep pulse k s).periph = .regModel m ∧ m.Answers s.cfg.pollMask reply k := by
  induction k with
  | zero => exact ⟨d, hp, hd⟩
  | succ k ih =>
    obtain ⟨m, hm, hanswers⟩ := ih (by omega)
    rw [repeatStep_succ, pulse_periph_double hm (by simpa using hcs)]
    simp only [repeat_pulse_cfg, hbusW]
    exact ⟨_, rfl, hanswers.exchange (by omega) _ _⟩

/-- Eight pulses take in the byte the double answers. -/
theorem eight_pulses_answers {reply : Byte} (hbusW : s.cfg.busW = 8) (hcs : s.cs = true)
    (hp : s.periph = .regModel d) (hd : d.Answers s.cfg.pollMask reply 0) :
    (repeatStep pulse 8 s).sr = reply := by
  refine byte_eq_of_busBit s.cfg.busMsbFirst fun k hk => ?_
  obtain ⟨m, hm, hanswers⟩ := repeat_pulse_answers hbusW hcs hp hd hk
  rw [busBit_eight_pulses s hk, drawnBit_double hm (by simpa using hcs) hanswers.firstByte]
  rw [repeat_pulse_cfg, hanswers.bits, hanswers.reply]

/-- The double `d` has taken the first `k` bits of byte `b`, with no completion to come (R203, item
1). -/
structure RegModel.Assembles (m d : RegModel) (msb : Bool) (b : Byte) (k : Nat) : Prop where
  frame : m = { d with bitCount := k, partialByte := m.partialByte, reply := m.reply }
  bits : ∀ j < k, busBit msb (8 - k + j) m.partialByte = busBit msb j b

/-- The next bit takes the last position. -/
theorem busBit_shiftIn_assembled {p : Byte} {msb : Bool} (hk : k < 8)
    (h : ∀ j < k, busBit msb (8 - k + j) p = busBit msb j b) :
    ∀ j < k + 1, busBit msb (8 - (k + 1) + j) (shiftIn msb p (busBit msb k b)) =
      busBit msb j b := by
  intro j hj
  rw [busBit_shiftIn _ _ _ (by omega)]
  by_cases hlast : j = k
  · rw [if_pos (by omega), hlast]
  · rw [if_neg (by omega), show 8 - (k + 1) + j + 1 = 8 - k + j by omega]
    exact h j (by omega)

/-- Along the pulses of a byte the double assembles it. -/
theorem repeat_pulse_assembles (hbusW : s.cfg.busW = 8) (hcs : s.cs = true)
    (hp : s.periph = .regModel d) (hidle : d.armed = false) (hbits : d.bitCount = 0) (hk : k < 8) :
    ∃ m, (repeatStep pulse k s).periph = .regModel m ∧
      m.Assembles d s.cfg.busMsbFirst s.sr k := by
  induction k with
  | zero =>
    refine ⟨d, hp, ?_, fun j hj => absurd hj (Nat.not_lt_zero j)⟩
    rw [← hbits]
  | succ k ih =>
    obtain ⟨m, hm, hframe, hassembled⟩ := ih (by omega)
    have hm' : m.armed = false := by rw [hframe]; exact hidle
    have hcount : m.bitCount = k := by rw [hframe]
    rw [repeatStep_succ, pulse_periph_double hm (by simpa using hcs), choose_idle _ hm']
    simp only [repeat_pulse_cfg, hbusW, dataOut_repeat_pulse s (by omega : k < 8)]
    rw [RegModel.exchange, takeBit_not_last _ _ (by simp only [hcount]; omega)]
    refine ⟨_, rfl, ?_, busBit_shiftIn_assembled (by omega) hassembled⟩
    rw [hframe]

/-- Eight pulses complete the byte sent. -/
theorem eight_pulses_byteDone (hbusW : s.cfg.busW = 8) (hcs : s.cs = true)
    (hp : s.periph = .regModel d) (hidle : d.armed = false) (hbits : d.bitCount = 0) :
    ∃ n p r, (repeatStep pulse 8 s).periph =
      .regModel
        (RegModel.byteDone { d with bitCount := n, partialByte := p, reply := r } s.sr) := by
  obtain ⟨m, hm, hframe, hassembled⟩ :=
    repeat_pulse_assembles hbusW hcs hp hidle hbits (by omega : 7 < 8)
  have hm' : m.armed = false := by rw [hframe]; exact hidle
  have hcount : m.bitCount = 7 := by rw [hframe]
  have hbyte :
      shiftIn s.cfg.busMsbFirst m.partialByte (busBit s.cfg.busMsbFirst 7 s.sr) = s.sr := by
    refine byte_eq_of_busBit s.cfg.busMsbFirst fun j hj => ?_
    have := busBit_shiftIn_assembled (by omega) hassembled j hj
    rwa [Nat.sub_self, Nat.zero_add] at this
  refine ⟨7, m.partialByte, m.replyByte, ?_⟩
  rw [repeatStep_succ, pulse_periph_double hm (by simpa using hcs), choose_idle _ hm']
  simp only [repeat_pulse_cfg, hbusW, dataOut_repeat_pulse s (by omega : 7 < 8)]
  rw [RegModel.exchange, takeBit_last _ _ (by simp only [hcount])]
  simp only [hbyte]
  rw [hframe]

/-! ## The scenario (R204, 95_test_vectors.md A5) -/

/-- The reply of a freshly selected double is its status after the first moment of choice. -/
theorem answers_of_selected (mask : Byte) (hbyte : d.byteCount = 0) (hbits : d.bitCount = 0) :
    d.Answers mask (d.choose mask).status 0 :=
  ⟨hbyte, hbits, by simp [RegModel.replyByte, RegModel.atFirstBit, hbyte, hbits]⟩

theorem State.XferStart.busW (h : s.XferStart) : s.cfg.busW = 8 := by
  obtain ⟨-, hbusW, -⟩ := h.coherent
  exact hbusW

/-- The first transfer of a transaction returns a status the double held (R203, item 2). -/
theorem State.XferStart.returns_status {q : State} (h : s.XferStart) (hcs : s.cs = true)
    (hp : s.periph = .regModel d) (hbyte : d.byteCount = 0) (hbits : d.bitCount = 0)
    (hq : s.Exchanged b q) : q.sr = (d.choose s.cfg.pollMask).status :=
  hq ▸ eight_pulses_answers (s := s.beforePulses b) h.busW hcs hp
    (answers_of_selected _ hbyte hbits)

/-- A transfer to an idle double completes the byte it sends. -/
theorem State.XferStart.byteDone {q : State} (h : s.XferStart) (hcs : s.cs = true)
    (hp : s.periph = .regModel d) (hidle : d.armed = false) (hbits : d.bitCount = 0)
    (hq : s.Exchanged b q) :
    ∃ n p r, q.periph =
      .regModel (RegModel.byteDone { d with bitCount := n, partialByte := p, reply := r } b) :=
  hq ▸ eight_pulses_byteDone (s := s.beforePulses b) h.busW hcs hp hidle hbits

/-- Settles O50: the first transfer selects the status register, the second clears its operand's
bits. -/
theorem writeToClearScenario : Obligations.WriteToClearScenario := by
  unfold Obligations.WriteToClearScenario
  intro s d mask hc he hp hworks hcs hd hbyte hbits hnext
  have h : s.XferStart := ⟨hc, he, hp, hworks⟩
  refine ⟨fun b => ?_, fun hidle => ?_⟩
  · obtain ⟨q, hq⟩ : ∃ q, s.Exchanged b q := ⟨_, rfl⟩
    exact ⟨_, h.execRepeat_eleven hq,
      congrArg Ret.byte (h.returns_status hcs hd hbyte hbits hq)⟩
  · obtain ⟨q, hq⟩ : ∃ q, s.Exchanged (d.table.cmdWrite ||| d.table.regStatus) q := ⟨_, rfl⟩
    obtain ⟨n, p, r, hperiph⟩ := h.byteDone hcs hd hidle hbits hq
    have hsr := h.returns_status hcs hd hbyte hbits hq
    have hfirst := h.execRepeat_eleven hq
    rw [choose_idle _ hidle] at hsr
    rw [byteDone_first (m := { d with bitCount := n, partialByte := p, reply := r }) hbyte]
      at hperiph
    have hframe := hq.sameButBus
    have h' : State.XferStart { q with
        ret := .byte q.sr, idx := s.idx + 1, phase := arrivalPhase s.prog (s.idx + 1) } := by
      refine ⟨?_, ?_, ?_, ?_⟩
      · rw [hframe]; exact hc
      · rw [hframe]; exact he
      · simp only [arrivalPhase, hnext, firstPhase]
      · rw [hframe]; exact hworks
    have hcs' : q.cs = true := by rw [hframe]; exact hcs
    obtain ⟨q', hq'⟩ : ∃ q', State.Exchanged { q with
        ret := .byte q.sr, idx := s.idx + 1, phase := arrivalPhase s.prog (s.idx + 1) } mask q' :=
      ⟨_, rfl⟩
    obtain ⟨n', p', r', hperiph'⟩ := h'.byteDone hcs' hperiph hidle rfl hq'
    rw [byteDone_write rfl rfl] at hperiph'
    exact ⟨_, _, _, _, hfirst, congrArg Ret.byte hsr, hperiph, rfl, h'.execRepeat_eleven hq',
      hperiph', rfl⟩

end Sys2Proof.Machine

/-!
PROOFS. The completion poll (spec 45_sequencer_environment.md R201; D17): its commands for a list of
statuses, and the session that runs it on the machine and feeds each status read back into the loop
(log 21).
-/

namespace Sys2Proof.Machine

open Sys2Proof

variable {s t : State} {c : Config.Params} {tbl : Config.CmdTable} {i : Instr} {n : Nat}
  {status : Byte} {used rest before : List Byte} {q r : Session} {x : ScriptStep}
  {more : List ScriptStep}

/-! ## The commands for a list of statuses -/

/-- A status without a bit of `POLL_MASK`: the poll goes on (R193, R201). -/
def incomplete (mask status : Byte) : Prop := status &&& mask = 0

theorem pollTurn_incomplete (h : incomplete c.pollMask status) :
    pollTurn c tbl .reading status = (.reading, unkept .delay :: readStatus tbl) := by
  have hdone : pollDone c.pollMask status = false := by
    simpa using mt (pollDone_iff c.pollMask status).1 (not_not.2 h)
  simp [pollTurn, hdone]

theorem pollTurn_complete (h : ¬ incomplete c.pollMask status) :
    pollTurn c tbl .reading status = (.finished, [unkept .enoff]) := by
  have hdone : pollDone c.pollMask status = true := (pollDone_iff c.pollMask status).2 h
  simp [pollTurn, hdone]

/-- Incomplete statuses leave the loop running (R201). -/
theorem pollRun_append (h : ∀ x ∈ before, incomplete c.pollMask x) (l : List Byte) :
    pollRun c tbl .reading (before ++ l) =
      pollRun c tbl .reading before ++ pollRun c tbl .reading l := by
  induction before with
  | nil => rfl
  | cons a before ih =>
    rw [List.forall_mem_cons] at h
    simp only [List.cons_append, pollRun, pollTurn_incomplete h.1, ih h.2, List.append_assoc]

theorem pollCommands_append (h : ∀ x ∈ before, incomplete c.pollMask x) (l : List Byte) :
    pollCommands c tbl (before ++ l) =
      pollCommands c tbl before ++ commandsOf (pollRun c tbl .reading l) := by
  simp only [pollCommands, pollRun_append h, commandsOf_append, List.append_assoc]

/-- One more status adds the commands of its turn. -/
theorem pollCommands_snoc (h : ∀ x ∈ used, incomplete c.pollMask x) (status : Byte) :
    pollCommands c tbl (used ++ [status]) =
      pollCommands c tbl used ++ commandsOf (pollTurn c tbl .reading status).2 := by
  rw [pollCommands_append h, pollRun, pollRun, List.append_nil]

/-- After the first complete status nothing but the release of the enable line is issued (R201). -/
theorem commandsOf_pollRun_complete (h : ¬ incomplete c.pollMask status) (after : List Byte) :
    commandsOf (pollRun c tbl .reading (status :: after)) = [.enoff] := by
  rw [pollRun, pollTurn_complete h, pollRun_finished]
  rfl

/-- Each incomplete status is followed by the delay and another read (R201; D17). -/
theorem commandsOf_pollRun_incomplete (h : ∀ x ∈ before, incomplete c.pollMask x) :
    commandsOf (pollRun c tbl .reading before) =
      (before.map fun _ => .delay :: commandsOf (readStatus tbl)).flatten := by
  induction before with
  | nil => rfl
  | cons a before ih =>
    rw [List.forall_mem_cons] at h
    rw [pollRun, pollTurn_incomplete h.1, commandsOf_append, ih h.2]
    rfl

theorem pollCommands_incomplete (h : ∀ x ∈ before, incomplete c.pollMask x) :
    pollCommands c tbl before = (.enon :: commandsOf (readStatus tbl)) ++
      (before.map fun _ => .delay :: commandsOf (readStatus tbl)).flatten := by
  rw [pollCommands, commandsOf_append, commandsOf_pollRun_incomplete h]
  rfl

/-- While the poll goes on the enable line is not released (R201). -/
theorem enoff_not_mem_pollCommands (h : ∀ x ∈ before, incomplete c.pollMask x) :
    Instr.enoff ∉ pollCommands c tbl before := by
  rw [pollCommands_incomplete h]
  simp [commandsOf, readStatus, bracket, unkept, keepXfer]

/-- A status has a bit of the mask exactly if it has one of the two flags (R193). -/
theorem and_pollMask_ne_zero {mask : Byte} (h : tbl.FlagsCoherent mask) (status : Byte) :
    status &&& mask ≠ 0 ↔ status &&& tbl.stDataSent ≠ 0 ∨ status &&& tbl.stMaxRetry ≠ 0 := by
  obtain ⟨-, -, rfl⟩ := h
  have hsplit : status &&& (tbl.stDataSent ||| tbl.stMaxRetry) =
      status &&& tbl.stDataSent ||| status &&& tbl.stMaxRetry := by
    apply BitVec.eq_of_getLsbD_eq
    intro k hk
    simp [Bool.and_or_distrib_left]
  have hzero : status &&& (tbl.stDataSent ||| tbl.stMaxRetry) = 0 ↔
      status &&& tbl.stDataSent = 0 ∧ status &&& tbl.stMaxRetry = 0 := by
    rw [hsplit]
    exact BitVec.or_eq_zero_iff
  rw [ne_eq, hzero, not_and_or]

/-- Settles O52: the loop's unrolling over incomplete statuses, and its end on the next one. -/
theorem pollEndsOnFirstCompletedStatus : Obligations.PollEndsOnFirstCompletedStatus := by
  unfold Obligations.PollEndsOnFirstCompletedStatus
  refine fun c tbl => ⟨rfl, and_pollMask_ne_zero, fun before hbefore => ?_⟩
  refine ⟨pollCommands_incomplete hbefore, enoff_not_mem_pollCommands hbefore,
    fun status after hstatus => ?_⟩
  have hend : pollCommands c tbl (before ++ status :: after) =
      pollCommands c tbl before ++ [.enoff] := by
    rw [pollCommands_append hbefore, commandsOf_pollRun_complete hstatus]
  refine ⟨hend, ?_⟩
  rw [hend, List.count_append, List.count_eq_zero_of_not_mem (enoff_not_mem_pollCommands hbefore)]
  rfl

/-! ## The Sequencer's move -/

@[simp] theorem refill_kept (q : Session) : q.refill.kept = q.kept := by
  unfold Session.refill
  split <;> rfl

@[simp] theorem issue_kept (q : Session) : q.issue.kept = q.kept := by
  unfold Session.issue
  split <;> rfl

/-- A byte is kept exactly when an awaited transfer has completed. -/
theorem advance_kept (q : Session) :
    q.advance.kept = if q.awaiting = true ∧ q.machine.finished = true then
      q.kept ++ [q.machine.response] else q.kept := by
  unfold Session.advance Session.collect
  by_cases hf : q.machine.finished = true <;> by_cases ha : q.awaiting = true <;> simp [hf, ha]

/-- With steps of the script left, the Sequencer issues the next one. -/
theorem advance_issue (hf : q.machine.finished = true) (ht : q.todo = x :: more) :
    q.advance = { q with machine := q.machine.issue x.op, todo := more, awaiting := x.keep,
                         kept := q.advance.kept } := by
  rw [advance_kept]
  unfold Session.advance Session.collect
  by_cases ha : q.awaiting = true <;> simp [Session.refill, Session.issue, hf, ha, ht]

/-- With none left, the loop takes a turn with the status kept last, and its first step is issued.
-/
theorem advance_turn {ps : PollState} (hf : q.machine.finished = true) (ht : q.todo = [])
    (ha : q.awaiting = false)
    (hturn : pollTurn q.machine.cfg q.table q.poll (q.kept.getLastD 0) = (ps, x :: more)) :
    q.advance = { q with machine := q.machine.issue x.op, poll := ps, todo := more,
                         awaiting := x.keep } := by
  have hcollect : q.collect = q := by simp [Session.collect, ha]
  have hrefill : q.refill = { q with poll := ps, todo := x :: more } := by
    simp only [Session.refill, ht, hturn]
  rw [Session.advance, if_pos hf, hcollect, hrefill]
  rfl

/-- After its end the poll moves nothing (R201). -/
theorem advance_ended (ht : q.todo = []) (ha : q.awaiting = false) (hp : q.poll = .finished) :
    q.advance = q := by
  unfold Session.advance
  split
  · obtain ⟨machine, table, todo, awaiting, poll, kept⟩ := q
    simp only at ht ha hp
    subst ht ha hp
    rfl
  · rfl

/-! ## The machine's side -/

theorem finished_iff : s.finished = true ↔ s.prog.length ≤ s.idx := decide_eq_true_iff

/-- A step leaves the index, or completes the command the main context stands at (10_state.md R31).
-/
theorem step_idx_cases (h : step s = .next t) :
    t.idx = s.idx ∨ (t.idx = s.idx + 1 ∧ ∃ i, s.current = some i ∧ exec i s.picked = .next t) := by
  obtain ⟨i, hpick, hexec⟩ := step_next h
  rcases exec_position_cases hexec with ⟨-, hidx, -⟩ | ⟨hmem, ⟨hidx, -⟩ | ⟨hidx, -⟩⟩
  · exact .inl (by simpa using hidx)
  · exact .inl (by simpa using hidx)
  · obtain ⟨-, ⟨-, rfl⟩ | ⟨-, rfl⟩ | ⟨-, hcur⟩⟩ := pick_run hpick
    · cases hmem
    · cases hmem
    · exact .inr ⟨by simpa using hidx, i, hcur, hexec⟩

/-- A step of a finished main context returns nothing (10_state.md R31). -/
theorem step_keeps_ret_of_finished (hf : s.current = none) (h : step s = .next t) :
    t.ret = s.ret := by
  obtain ⟨i, hpick, hexec⟩ := step_next h
  obtain ⟨-, ⟨-, rfl⟩ | ⟨-, rfl⟩ | ⟨-, hcur⟩⟩ := pick_run hpick
  · obtain ⟨-, rfl⟩ := execTick_next.1 hexec
    simp
  · obtain ⟨-, rfl⟩ := execExpire_next.1 hexec
    simp
  · rw [hf] at hcur; cases hcur

/-- The transfer the session waits for: in progress, or completed with its byte in `ret`
(43_bus_transfer.md R157). -/
def State.TransferAwaited (s : State) (b : Byte) : Prop :=
  s.current = some (.xfer b) ∨ (s.finished = true ∧ ∃ r, s.ret = .byte r)

/-- Only its last phase completes a transfer, and it returns a byte. -/
theorem execXfer_ret_of_completed {b : Byte} (h : exec (.xfer b) s = .next t)
    (hidx : t.idx = s.idx + 1) : ∃ r, t.ret = .byte r := by
  obtain ⟨-, ⟨-, rfl⟩ | ⟨-, rfl⟩ | ⟨-, -, rfl⟩ | ⟨-, -, rfl⟩ | ⟨-, rfl⟩⟩ := execXfer_next h
  · simp at hidx
  · simp at hidx
  · simp at hidx
  · simp at hidx
  · exact ⟨s.sr, rfl⟩

theorem State.TransferAwaited.afterStep {b : Byte} (hs : s.TransferAwaited b)
    (hlast : s.idx + 1 = s.prog.length ∨ s.finished = true) (h : step s = .next t) :
    t.TransferAwaited b := by
  have hprog := step_keeps_prog h
  rcases hs with hcur | ⟨hf, r, hret⟩
  · rcases step_idx_cases h with hidx | ⟨hidx, i, hcur', hexec⟩
    · left
      rw [State.current, hprog, hidx]
      exact hcur
    · obtain rfl : i = .xfer b := Option.some.inj (hcur'.symm.trans hcur)
      have hlt := idx_lt_of_current hcur
      refine .inr ⟨?_, execXfer_ret_of_completed hexec (by simpa using hidx)⟩
      rw [finished_iff] at hlast ⊢
      rw [hprog]
      omega
  · have hnone := current_of_finished (finished_iff.1 hf)
    refine .inr ⟨?_, r, (step_keeps_ret_of_finished hnone h).trans hret⟩
    rcases step_idx_cases h with hidx | ⟨-, i, hcur, -⟩
    · rw [finished_iff] at hf ⊢
      rwa [hprog, hidx]
    · rw [hnone] at hcur; cases hcur

/-! ## Where the session stands in a read of the loop -/

/-- The stages of the poll on the machine, with the statuses `used` by the loop so far and the
status `rest` kept but not yet used. -/
inductive Session.Stage (q : Session) (mask : Byte) (tbl : Config.CmdTable)
    (used rest : List Byte) : Prop where
  /-- The enable line or the delay has been issued. -/
  | beforeRead (reading : q.poll = .reading) (going : ∀ x ∈ used, incomplete mask x)
      (noRest : rest = []) (idle : q.awaiting = false) (todo : q.todo = readStatus tbl)
  /-- Chip-select has been asserted. -/
  | selected (reading : q.poll = .reading) (going : ∀ x ∈ used, incomplete mask x)
      (noRest : rest = []) (idle : q.awaiting = false)
      (todo : q.todo = [keepXfer tbl.cmdNop, unkept .csoff])
  /-- The transfer has been issued, and its response is awaited. -/
  | transferring (reading : q.poll = .reading) (going : ∀ x ∈ used, incomplete mask x)
      (noRest : rest = []) (waiting : q.awaiting = true) (todo : q.todo = [unkept .csoff])
      (awaited : q.machine.TransferAwaited tbl.cmdNop)
  /-- The response is kept and chip-select has been released. -/
  | afterRead (reading : q.poll = .reading) (going : ∀ x ∈ used, incomplete mask x)
      (oneRest : ∃ r, rest = [r]) (idle : q.awaiting = false) (todo : q.todo = [])
  /-- The loop has been left on its first complete status. -/
  | ended (left : q.poll = .finished) (noRest : rest = [])
      (firstComplete : ∃ before status, used = before ++ [status] ∧
        (∀ x ∈ before, incomplete mask x) ∧ ¬ incomplete mask status)
      (idle : q.awaiting = false) (todo : q.todo = [])

/-- What holds of a session that polls on the machine `s`. -/
structure Session.Polls (q : Session) (s : State) (tbl : Config.CmdTable) (used rest : List Byte) :
    Prop where
  table : q.table = tbl
  cfg : q.machine.cfg = s.cfg
  oneAhead : q.machine.idx = q.machine.prog.length ∨ q.machine.idx + 1 = q.machine.prog.length
  kept : q.kept = used ++ rest
  issued : q.machine.prog ++ assemble (commandsOf q.todo) =
    s.prog ++ assemble (pollCommands s.cfg tbl used)
  stage : q.Stage s.cfg.pollMask tbl used rest

theorem idx_of_finished (h : s.idx = s.prog.length ∨ s.idx + 1 = s.prog.length)
    (hf : s.finished = true) : s.idx = s.prog.length := by
  have := finished_iff.1 hf
  omega

/-- The machine's steps leave the stage, the responses and the commands where they are. -/
theorem Session.Polls.machineStep (h : q.Polls s tbl used rest)
    (hstep : Machine.step q.machine = .next t) :
    Session.Polls { q with machine := t } s tbl used rest where
  table := h.table
  cfg := (step_keeps_cfg hstep).trans h.cfg
  oneAhead := by
    simp only [step_keeps_prog hstep]
    rcases step_idx_cases hstep with hidx | ⟨hidx, i, hcur, -⟩
    · rw [hidx]; exact h.oneAhead
    · have hlt := idx_lt_of_current hcur
      have := h.oneAhead
      omega
  kept := h.kept
  issued := by
    simp only [step_keeps_prog hstep]
    exact h.issued
  stage := by
    have hlast : q.machine.idx + 1 = q.machine.prog.length ∨ q.machine.finished = true := by
      rw [finished_iff]
      have := h.oneAhead
      omega
    cases h.stage with
    | beforeRead h1 h2 h3 h4 h5 => exact .beforeRead h1 h2 h3 h4 h5
    | selected h1 h2 h3 h4 h5 => exact .selected h1 h2 h3 h4 h5
    | transferring h1 h2 h3 h4 h5 h6 =>
      exact .transferring h1 h2 h3 h4 h5 (h6.afterStep hlast hstep)
    | afterRead h1 h2 h3 h4 h5 => exact .afterRead h1 h2 h3 h4 h5
    | ended h1 h2 h3 h4 h5 => exact .ended h1 h2 h3 h4 h5

/-- Issuing a command moves it from the commands to come to those issued. -/
theorem issue_prog_append (s : State) (x : ScriptStep) (more : List ScriptStep) :
    (s.issue x.op).prog ++ assemble (commandsOf more) =
      s.prog ++ assemble (commandsOf (x :: more)) := by
  simp [State.issue, commandsOf, assemble]

theorem issue_oneAhead (i : Instr) (h : s.idx = s.prog.length) :
    (s.issue i).idx = (s.issue i).prog.length ∨ (s.issue i).idx + 1 = (s.issue i).prog.length := by
  simp [State.issue, h]

/-- The Sequencer's move with a step left: the step is issued, and the stage is the caller's. -/
theorem Session.Polls.issueNext {rest' : List Byte} (h : q.Polls s tbl used rest)
    (hf : q.machine.finished = true) (ht : q.todo = x :: more)
    (hkept : q.advance.kept = used ++ rest')
    (hstage : q.advance.Stage s.cfg.pollMask tbl used rest') :
    q.advance.Polls s tbl used rest' := by
  have hmove := advance_issue hf ht
  refine ⟨?_, ?_, ?_, hkept, ?_, hstage⟩
  · rw [hmove]; exact h.table
  · rw [hmove]; exact h.cfg
  · rw [hmove]; exact issue_oneAhead x.op (idx_of_finished h.oneAhead hf)
  · rw [hmove]
    simp only [issue_prog_append, ← ht]
    exact h.issued

/-- With no step left the loop takes its turn with the status read and not yet used. -/
theorem Session.Polls.advance_eq {ps : PollState} {r : Byte} (h : q.Polls s tbl used [r])
    (hf : q.machine.finished = true) (ht : q.todo = []) (ha : q.awaiting = false)
    (hreading : q.poll = .reading) (hturn : pollTurn s.cfg tbl .reading r = (ps, x :: more)) :
    q.advance = { q with machine := q.machine.issue x.op, poll := ps, todo := more,
                         awaiting := x.keep } := by
  have hlast : q.kept.getLastD 0 = r := by rw [h.kept]; simp
  exact advance_turn hf ht ha (by rw [h.cfg, h.table, hreading, hlast]; exact hturn)

/-- The Sequencer's move with no step left: the loop takes a turn with the status read last. -/
theorem Session.Polls.takeTurn {ps : PollState} {r : Byte} (h : q.Polls s tbl used [r])
    (hf : q.machine.finished = true) (ht : q.todo = []) (ha : q.awaiting = false)
    (hreading : q.poll = .reading) (hgoing : ∀ x ∈ used, incomplete s.cfg.pollMask x)
    (hturn : pollTurn s.cfg tbl .reading r = (ps, x :: more))
    (hstage : q.advance.Stage s.cfg.pollMask tbl (used ++ [r]) []) :
    q.advance.Polls s tbl (used ++ [r]) [] := by
  have hmove := h.advance_eq hf ht ha hreading hturn
  refine ⟨?_, ?_, ?_, ?_, ?_, hstage⟩ <;> rw [hmove]
  · exact h.table
  · exact h.cfg
  · exact issue_oneAhead x.op (idx_of_finished h.oneAhead hf)
  · simpa using h.kept
  · have hissued := h.issued
    rw [ht] at hissued
    simp only [issue_prog_append]
    rw [pollCommands_snoc hgoing, hturn, assemble_append, ← List.append_assoc, ← hissued]
    simp [commandsOf, assemble]

/-- The Sequencer's move keeps a polling session polling: it goes on to the next stage once the
command issued has completed. -/
theorem Session.Polls.advance (h : q.Polls s tbl used rest) :
    ∃ used' rest', q.advance.Polls s tbl used' rest' := by
  cases hf : q.machine.finished with
  | false => rw [advance_unfinished hf]; exact ⟨used, rest, h⟩
  | true =>
    have hidle (ha : q.awaiting = false) : q.advance.kept = used ++ rest := by
      rw [advance_kept, if_neg (by simp [ha]), h.kept]
    cases h.stage with
    | beforeRead hreading hgoing hnone ha ht =>
      have hmove := advance_issue hf ht
      refine ⟨used, rest, h.issueNext hf ht (hidle ha) (.selected ?_ hgoing hnone ?_ ?_)⟩ <;>
        rw [hmove]
      · exact hreading
      · rfl
      · rfl
    | selected hreading hgoing hnone ha ht =>
      have hmove := advance_issue hf ht
      refine ⟨used, rest, h.issueNext hf ht (hidle ha) (.transferring ?_ hgoing hnone ?_ ?_ ?_)⟩ <;>
        rw [hmove]
      · exact hreading
      · rfl
      · exact .inl (issue_current _ (idx_of_finished h.oneAhead hf) (decode?_encode _))
    | transferring hreading hgoing hnone ha ht =>
      have hmove := advance_issue hf ht
      have hkept : q.advance.kept = used ++ [q.machine.response] := by
        rw [advance_kept, if_pos ⟨ha, hf⟩, h.kept, hnone, List.append_nil]
      refine ⟨used, _, h.issueNext hf ht hkept (.afterRead ?_ hgoing ⟨_, rfl⟩ ?_ ?_)⟩ <;> rw [hmove]
      · exact hreading
      · rfl
    | afterRead hreading hgoing hone ha ht =>
      obtain ⟨r, rfl⟩ := hone
      by_cases hr : incomplete s.cfg.pollMask r
      · have hturn := pollTurn_incomplete (tbl := tbl) hr
        have hmove := h.advance_eq hf ht ha hreading hturn
        refine ⟨used ++ [r], [], h.takeTurn hf ht ha hreading hgoing hturn
          (.beforeRead ?_ ?_ rfl ?_ ?_)⟩
        · rw [hmove]
        · simpa [or_imp, forall_and] using ⟨hgoing, hr⟩
        · rw [hmove]; rfl
        · rw [hmove]
      · have hturn := pollTurn_complete (tbl := tbl) hr
        have hmove := h.advance_eq hf ht ha hreading hturn
        refine ⟨used ++ [r], [], h.takeTurn hf ht ha hreading hgoing hturn
          (.ended ?_ rfl ⟨used, r, rfl, hgoing, hr⟩ ?_ ?_)⟩ <;> rw [hmove]
        rfl
    | ended hended hnone hfirst ha ht =>
      rw [advance_ended ht ha hended]
      exact ⟨used, rest, h⟩

/-! ## The run of a session -/

theorem sessionRun_succ_next : Session.run (n + 1) q = .next r ↔
    ∃ u, q.step = .next u ∧ Session.run n u = .next r := by
  rw [Session.run]
  cases q.step <;> simp

/-- A session's step keeps it polling. -/
theorem Session.Polls.afterStep (h : q.Polls s tbl used rest) (hstep : q.step = .next r) :
    ∃ used' rest', r.Polls s tbl used' rest' := by
  obtain ⟨t, ht, rfl⟩ := sessionStep_next hstep
  obtain ⟨used', rest', hadvance⟩ := h.advance
  exact ⟨used', rest', hadvance.machineStep ht⟩

theorem Session.Polls.afterRun (h : q.Polls s tbl used rest) (hrun : Session.run n q = .next r) :
    ∃ used' rest', r.Polls s tbl used' rest' := by
  induction n generalizing q used rest with
  | zero => cases hrun; exact ⟨used, rest, h⟩
  | succ n ih =>
    obtain ⟨u, hu, hrest⟩ := sessionRun_succ_next.1 hrun
    obtain ⟨used', rest', h'⟩ := h.afterStep hu
    exact ih h' hrest

/-- The first move of the poll asserts the enable line and begins the first read (R201). -/
theorem begin_advance_polls (tbl : Config.CmdTable) (hidx : s.idx = s.prog.length) :
    (Session.begin s tbl).advance.Polls s tbl [] [] := by
  have hf : (Session.begin s tbl).machine.finished = true := finished_iff.2 (Nat.le_of_eq hidx.symm)
  have hmove := advance_turn (q := Session.begin s tbl) (x := unkept .enon) (more := readStatus tbl)
    (ps := .reading) hf rfl rfl rfl
  rw [hmove]
  refine ⟨rfl, rfl, issue_oneAhead _ hidx, rfl, ?_,
    .beforeRead rfl (fun x hx => nomatch hx) rfl rfl rfl⟩
  exact issue_prog_append s (unkept .enon) (readStatus tbl)

/-- From its first step on a session begun on a finished machine polls. -/
theorem run_begin_polls (hidx : s.idx = s.prog.length)
    (hrun : Session.run (n + 1) (Session.begin s tbl) = .next q) :
    ∃ used rest, q.Polls s tbl used rest := by
  obtain ⟨u, hu, hrest⟩ := sessionRun_succ_next.1 hrun
  obtain ⟨t, ht, rfl⟩ := sessionStep_next hu
  exact ((begin_advance_polls tbl hidx).machineStep ht).afterRun hrest

/-- A completed awaited transfer has left its byte in `ret`. -/
theorem Session.Polls.ret_of_awaited (h : q.Polls s tbl used rest) (ha : q.awaiting = true)
    (hf : q.machine.finished = true) : ∃ r, q.machine.ret = .byte r := by
  cases h.stage with
  | beforeRead _ _ _ hidle _ => rw [ha] at hidle; cases hidle
  | selected _ _ _ hidle _ => rw [ha] at hidle; cases hidle
  | transferring _ _ _ _ _ hawaited =>
    rcases hawaited with hcur | ⟨-, hret⟩
    · rw [current_of_finished (finished_iff.1 hf)] at hcur; cases hcur
    · exact hret
  | afterRead _ _ _ hidle _ => rw [ha] at hidle; cases hidle
  | ended _ _ _ hidle _ => rw [ha] at hidle; cases hidle

/-- At most one status is kept and not yet used, and the loop goes on exactly while every status
used is incomplete (R201). -/
theorem Session.Stage.verdict {mask : Byte} (h : q.Stage mask tbl used rest) :
    rest.length ≤ 1 ∧
      ((q.poll = .reading ∧ ∀ x ∈ used, incomplete mask x) ∨
       (q.poll = .finished ∧ rest = [] ∧ ∃ before status, used = before ++ [status] ∧
          (∀ x ∈ before, incomplete mask x) ∧ ¬ incomplete mask status)) := by
  cases h with
  | beforeRead hreading hgoing hnone _ _ => exact ⟨by simp [hnone], .inl ⟨hreading, hgoing⟩⟩
  | selected hreading hgoing hnone _ _ => exact ⟨by simp [hnone], .inl ⟨hreading, hgoing⟩⟩
  | transferring hreading hgoing hnone _ _ _ => exact ⟨by simp [hnone], .inl ⟨hreading, hgoing⟩⟩
  | afterRead hreading hgoing hone _ _ =>
    obtain ⟨r, rfl⟩ := hone
    exact ⟨by simp, .inl ⟨hreading, hgoing⟩⟩
  | ended hended hnone hfirst _ _ => exact ⟨by simp [hnone], .inr ⟨hended, hnone, hfirst⟩⟩

/-- Settles O60: every state of the session's run stands in one of the stages. -/
theorem machineRunsThePoll : Obligations.MachineRunsThePoll := by
  unfold Obligations.MachineRunsThePoll
  intro n s tbl q hidx hrun
  obtain ⟨used, rest, h⟩ := run_begin_polls hidx hrun
  obtain ⟨hlen, hverdict⟩ := h.stage.verdict
  refine ⟨fun ha hf => ?_, fun hno => by rw [advance_kept, if_neg hno], fun q' hq' => ?_,
    used, rest, h.kept, hlen, h.issued, hverdict⟩
  · obtain ⟨r, hr⟩ := h.ret_of_awaited ha hf
    refine ⟨r, hr, ?_⟩
    rw [advance_kept, if_pos ⟨ha, hf⟩, State.response, hr]
  · obtain ⟨t, -, rfl⟩ := sessionStep_next hq'
    rfl

end Sys2Proof.Machine
